-- ==== Sys2Proof/Word.lean ====
section
/-! DEFINITION. The engine's native word and the pair of two words that carries one 64-bit quantity
(spec/00_scope.md R5, R8; spec/42_pair_arith.md R200). -/

namespace Sys2Proof

/-- The native word and register width, 32 bits (R5 `WORD_BITS`, R8 "Word"). -/
abbrev Word := BitVec 32

/-- A `u8` (R6). -/
abbrev Byte := BitVec 8

/-- A 64-bit quantity as two 32-bit halves (R200): `hi` holds bits 63:32, `lo` bits 31:0. -/
structure Pair where
  hi : Word
  lo : Word
deriving DecidableEq, Repr, Inhabited

/-- The eight working variables of one compression (spec/43_compression.md R254). -/
structure Work where
  a : Pair
  b : Pair
  c : Pair
  d : Pair
  e : Pair
  f : Pair
  g : Pair
  h : Pair
deriving DecidableEq, Repr, Inhabited

/-- The scratch state of one compression (spec/10_state.md R30): the working variables, the message
schedule `W[0..79]` and the round index `t` in 0..79. -/
structure Scratch where
  work : Work
  w : Vector Pair 80
  t : Fin 80
deriving DecidableEq, Repr, Inhabited

/-- A Word Buffer (spec/40_word_buffer.md R130): words, and the count of significant bytes. -/
structure WordBuf where
  words : List Word
  sigBytes : Nat
deriving DecidableEq, Repr, Inhabited

end Sys2Proof
end

