-- ==== Sys2Proof/Syntax.lean ====
section
/-! DEFINITION. The engine's commands, its "instructions" (spec/30_encoding.md R103), one
constructor for each row of spec/opcode_table.json. -/

namespace Sys2Proof

/-- A decoded command. `nb` is the 3-bit field `NB` (R100, R101) of a data command: how many bytes it
takes from `PEND_DIN`. The other commands have no operand. -/
inductive Instr where
  /-- `INIT` (spec/41_streaming.md R155) -/
  | init
  /-- `UPDATE` (R156) -/
  | update (nb : BitVec 3)
  /-- `FINAL` (R157, spec/44_hmac.md R307) -/
  | final (nb : BitVec 3)
  /-- `KEY_BEGIN` (R301) -/
  | keyBegin
  /-- `KEY_UPDATE` (R302) -/
  | keyUpdate (nb : BitVec 3)
  /-- `HMAC_START` (R303) -/
  | hmacStart
  /-- `HMAC_RESET` (R306) -/
  | hmacReset
deriving DecidableEq, Repr

end Sys2Proof
end

