-- ==== Sys2Proof/WellFormed.lean ====
section
/-! DEFINITION. Which commands the format admits (spec/30_encoding.md R101): a data command carries 0
to 4 bytes. -/

namespace Sys2Proof

/-- `NB` may be 0, 1, 2, 3 or 4 (R101). -/
def nbOk (nb : BitVec 3) : Bool := decide (nb.toNat ≤ 4)

/-- The operand of every data command is in range; a command without data has none. -/
def Instr.wf : Instr → Bool
  | .init => true
  | .update nb => nbOk nb
  | .final nb => nbOk nb
  | .keyBegin => true
  | .keyUpdate nb => nbOk nb
  | .hmacStart => true
  | .hmacReset => true

end Sys2Proof
end

