-- ==== Sys2Proof/Decode.lean ====
section
/-! DEFINITION. Decoding a 32-bit command word (spec/30_encoding.md R107), total on all words and
rejecting with an error code (spec/60_exceptions.md R351); then the encoder (R100, R103), and the
disassembly of a command word (R108). -/

namespace Sys2Proof

/-- The reasons a command is rejected (R351). -/
inductive ErrCode where
  /-- `E_ILLEGAL_OP`: `OP` is not one of the seven opcodes -/
  | illegalOp
  /-- `E_RESERVED`: `RSV ≠ 0` with a legal `OP` -/
  | reserved
  /-- `E_BAD_NB`: `NB > 4`, or `NB ≠ 0` on a command without data -/
  | badNb
  /-- `E_BUSY`: a `CMD` write while `BUSY = 1` -/
  | busy
  /-- `E_FINALIZED`: `UPDATE` or `FINAL` while `PHASE = FINALIZED` -/
  | finalized
  /-- `E_MODE`: `UPDATE` or `FINAL` in `MODE = KEY`; `KEY_UPDATE` or `HMAC_START` in another mode -/
  | mode
  /-- `E_NO_KEY`: `HMAC_RESET` while `KEY_VALID = 0` -/
  | noKey
  /-- `E_LEN_OVF`: a data command with `TOTAL + NB > 2^64 - 1` -/
  | lenOvf
deriving DecidableEq, Repr

/-- The code as read in `ERRCODE[7:0]` (R351). -/
def ErrCode.code : ErrCode → BitVec 8
  | .illegalOp => 0x01#8
  | .reserved => 0x02#8
  | .badNb => 0x03#8
  | .busy => 0x04#8
  | .finalized => 0x05#8
  | .mode => 0x06#8
  | .noKey => 0x07#8
  | .lenOvf => 0x08#8

/-- `w[7:0]` (R100). -/
def opField (w : Word) : BitVec 8 := w.extractLsb' 0 8

/-- `w[10:8]` (R100). -/
def nbField (w : Word) : BitVec 3 := w.extractLsb' 8 3

/-- `w[31:11]` (R100). -/
def rsvField (w : Word) : BitVec 21 := w.extractLsb' 11 21

/-- The seven assigned opcodes (R103) as a command with the word's `NB`, and whether the command
takes data (R101). Every other `OP` is illegal (R104). -/
def commandOf (op : BitVec 8) (nb : BitVec 3) : Option (Instr × Bool) :=
  if op = 0x01#8 then some (.init, false)
  else if op = 0x02#8 then some (.update nb, true)
  else if op = 0x03#8 then some (.final nb, true)
  else if op = 0x10#8 then some (.keyBegin, false)
  else if op = 0x11#8 then some (.keyUpdate nb, true)
  else if op = 0x12#8 then some (.hmacStart, false)
  else if op = 0x13#8 then some (.hmacReset, false)
  else none

/-- `Decode(w)` (R107), with the tests in the rule's order. -/
def decode (w : Word) : Except ErrCode Instr :=
  match commandOf (opField w) (nbField w) with
  | none => .error .illegalOp
  | some (i, takesData) =>
    if rsvField w ≠ 0#21 then .error .reserved
    else if nbOk (nbField w) = false then .error .badNb
    else if takesData = false ∧ nbField w ≠ 0#3 then .error .badNb
    else .ok i

/-- The decoder on an instruction of spec/opcode_table.json: every command is one 32-bit word (R106),
presented to `CMD` as a number. -/
def decodeTableWord (nbits w : Nat) : Option Instr :=
  match decode (BitVec.ofNat 32 (w % 2 ^ nbits)) with
  | .ok i => some i
  | .error _ => none

/-- The opcode of a command (R103). -/
def opcodeOf : Instr → BitVec 8
  | .init => 0x01#8
  | .update _ => 0x02#8
  | .final _ => 0x03#8
  | .keyBegin => 0x10#8
  | .keyUpdate _ => 0x11#8
  | .hmacStart => 0x12#8
  | .hmacReset => 0x13#8

/-- The `NB` a command carries: its own for a data command, 0 for the others (R101). -/
def nbOf : Instr → BitVec 3
  | .init => 0#3
  | .update nb => nb
  | .final nb => nb
  | .keyBegin => 0#3
  | .keyUpdate nb => nb
  | .hmacStart => 0#3
  | .hmacReset => 0#3

/-- The command word: `RSV = 0`, `NB`, `OP` (R100, R103). -/
def encode (i : Instr) : Word := 0#21 ++ nbOf i ++ opcodeOf i

/-- The command's name in spec/opcode_table.json. -/
def mnemonicOf : Instr → String
  | .init => "INIT"
  | .update _ => "UPDATE"
  | .final _ => "FINAL"
  | .keyBegin => "KEY_BEGIN"
  | .keyUpdate _ => "KEY_UPDATE"
  | .hmacStart => "HMAC_START"
  | .hmacReset => "HMAC_RESET"

/-- Whether the command is a data command (R101). -/
def takesData : Instr → Bool
  | .update _ => true
  | .final _ => true
  | .keyUpdate _ => true
  | .init => false
  | .keyBegin => false
  | .hmacStart => false
  | .hmacReset => false

/-- Eight hexadecimal digits of a word, most significant first. R108 gives no letter case: lower case is a
DESIGN CHOICE (log entry 19). -/
def hexWord (w : Word) : String :=
  String.ofList ([7, 6, 5, 4, 3, 2, 1, 0].map fun k => Nat.digitChar ((w.toNat >>> (4 * k)) % 16))

/-- The disassembly of a command word (R108). -/
def disassemble (w : Word) : String :=
  match decode w with
  | .error _ => ".word 0x" ++ hexWord w
  | .ok i =>
    if takesData i then "CMD " ++ mnemonicOf i ++ " nb=" ++ toString (nbOf i).toNat
    else "CMD " ++ mnemonicOf i

end Sys2Proof
end

