-- ==== Sys2Proof/Machine/PairArith.lean ====
section
/-! DEFINITION. 64-bit arithmetic on pairs of 32-bit halves, in the normative half formulas
(spec/42_pair_arith.md R200 to R218). No operation writes a flag or fails (R218). -/

namespace Sys2Proof.Machine

/-- `val(p)` (R200): `hi * 2^32 + lo`, as a 64-bit number. -/
def pairVal (p : Pair) : BitVec 64 := p.hi ++ p.lo

/-- `ADD64` (R201): the low halves are added, and the carry is 1 exactly when the low sum is below an
addend. -/
def add64 (x y : Pair) : Pair :=
  let lo := x.lo + y.lo
  let carry : Word := if lo.ult y.lo then 1#32 else 0#32
  ⟨x.hi + y.hi + carry, lo⟩

/-- `SUM` (R204): the left fold of `ADD64`; of no pair, zero. -/
def sum64 : List Pair → Pair
  | [] => ⟨0#32, 0#32⟩
  | x :: xs => xs.foldl add64 x

/-- `XOR64` (R205). -/
def xor64 (x y : Pair) : Pair := ⟨x.hi ^^^ y.hi, x.lo ^^^ y.lo⟩

/-- `AND64` (R205). -/
def and64 (x y : Pair) : Pair := ⟨x.hi &&& y.hi, x.lo &&& y.lo⟩

/-- `NOT64` (R205). -/
def not64 (x : Pair) : Pair := ⟨~~~x.hi, ~~~x.lo⟩

/-- `ROTR64` (R206 for 1..31, R207 for 0 and 32, R208 for 33..63). -/
def rotr64 (x : Pair) (n : Fin 64) : Pair :=
  if n.val = 0 then x
  else if n.val < 32 then
    ⟨(x.hi >>> n.val) ||| (x.lo <<< (32 - n.val)), (x.lo >>> n.val) ||| (x.hi <<< (32 - n.val))⟩
  else if n.val = 32 then ⟨x.lo, x.hi⟩
  else
    ⟨(x.lo >>> (n.val - 32)) ||| (x.hi <<< (64 - n.val)), (x.hi >>> (n.val - 32)) ||| (x.lo <<< (64 - n.val))⟩

/-- `ROTL64` (R209). -/
def rotl64 (x : Pair) (n : Fin 64) : Pair := rotr64 x ⟨(64 - n.val) % 64, Nat.mod_lt _ (by decide)⟩

/-- `SHR64` (R210), for 1..31. -/
def shr64 (x : Pair) (n : Fin 32) : Pair :=
  ⟨x.hi >>> n.val, (x.lo >>> n.val) ||| (x.hi <<< (32 - n.val))⟩

/-- `σ0` (R211). -/
def smallSigma0 (x : Pair) : Pair := xor64 (xor64 (rotr64 x 1) (rotr64 x 8)) (shr64 x 7)

/-- `σ1` (R212). -/
def smallSigma1 (x : Pair) : Pair := xor64 (xor64 (rotr64 x 19) (rotr64 x 61)) (shr64 x 6)

/-- `Σ0` (R213). -/
def bigSigma0 (x : Pair) : Pair := xor64 (xor64 (rotr64 x 28) (rotr64 x 34)) (rotr64 x 39)

/-- `Σ1` (R214). -/
def bigSigma1 (x : Pair) : Pair := xor64 (xor64 (rotr64 x 14) (rotr64 x 18)) (rotr64 x 41)

/-- `Ch` (R215). -/
def ch (x y z : Pair) : Pair := xor64 (and64 x y) (and64 (not64 x) z)

/-- `Maj` (R216). -/
def maj (x y z : Pair) : Pair := xor64 (xor64 (and64 x y) (and64 x z)) (and64 y z)

end Sys2Proof.Machine
end

