-- ==== Sys2Proof/Machine/Compression.lean ====
section
/-! DEFINITION. The SHA-512 compression (spec/43_compression.md R252 to R257). It is a pure function of
the input digest, the block and the constants (R257); its scratch lives only inside it. -/

namespace Sys2Proof.Machine

/-- `W[t]` for t < 16 (R252): the block's `t`-th 64-bit big-endian word. -/
def blockWord (blk : Vector Word 32) (t : Fin 16) : Pair :=
  ⟨blk[2 * t.val], blk[2 * t.val + 1]⟩

/-- The first 16 schedule words, newest first: `W[15]` down to `W[0]` (R252). -/
def firstWords (blk : Vector Word 32) : List Pair :=
  ([15, 14, 13, 12, 11, 10, 9, 8, 7, 6, 5, 4, 3, 2, 1, 0] : List (Fin 16)).map (blockWord blk)

/-- The next schedule word from those before it, newest first (R253): `W[t-2]`, `W[t-7]`, `W[t-15]` and
`W[t-16]` stand at positions 1, 6, 14 and 15. -/
def nextWord (ws : List Pair) : Pair :=
  sum64 [smallSigma1 (ws.getD 1 default), ws.getD 6 default, smallSigma0 (ws.getD 14 default), ws.getD 15 default]

/-- `n` further schedule words, newest first (R253). -/
def extendWords : Nat → List Pair → List Pair
  | 0, ws => ws
  | n + 1, ws => extendWords n (nextWord ws :: ws)

/-- The message schedule `W[0], …, W[79]` (R252, R253). -/
def schedule (blk : Vector Word 32) : List Pair := (extendWords 64 (firstWords blk)).reverse

/-- The working variables at the start (R254). -/
def workInit (hin : Vector Pair 8) : Work :=
  ⟨hin[0], hin[1], hin[2], hin[3], hin[4], hin[5], hin[6], hin[7]⟩

/-- One round with its constant `k = K[t]` and its word `w = W[t]` (R255), one parallel update. -/
def roundStep (v : Work) (k w : Pair) : Work :=
  let t1 := sum64 [v.h, bigSigma1 v.e, ch v.e v.f v.g, k, w]
  let t2 := add64 (bigSigma0 v.a) (maj v.a v.b v.c)
  ⟨add64 t1 t2, v.a, v.b, v.c, add64 v.d t1, v.e, v.f, v.g⟩

/-- The rounds in increasing `t` (R255, R259): one for each constant and word. -/
def rounds (v : Work) (ks ws : List Pair) : Work :=
  (ks.zip ws).foldl (fun u kw => roundStep u kw.1 kw.2) v

/-- The final addition (R256). -/
def addDigest (hin : Vector Pair 8) (v : Work) : Vector Pair 8 := #v[
  add64 hin[0] v.a, add64 hin[1] v.b, add64 hin[2] v.c, add64 hin[3] v.d,
  add64 hin[4] v.e, add64 hin[5] v.f, add64 hin[6] v.g, add64 hin[7] v.h]

/-- `Compress(Hin, blk)` (R257). -/
def compress (hin : Vector Pair 8) (blk : Vector Word 32) : Vector Pair 8 :=
  addDigest hin (rounds (workInit hin) roundConstants (schedule blk))

end Sys2Proof.Machine
end

