-- ==== Sys2Proof/Config.lean ====
section
/-! DEFINITION. What the spec leaves to the platform or leaves unspecified (spec/00_scope.md R5,
spec/93_implementation_defined.md section 2). Each is an opaque constant: nothing in Lean can
evaluate it, so a claim that is proved holds for every value of it. The first argument is the number of
an engine in its system (`N_INSTANCES`, R5): how the free values of two engines relate is left free. -/

namespace Sys2Proof.Config

/-- `CMD_LATENCY` (R5, R354, R408): the number of host steps between the acceptance of a command and
the engine's step, for an engine and its `n`-th draw. A natural number, so finite, with no bound. -/
opaque cmdLatency : Nat → Nat → Nat

/-- The value of an engine's `n`-th draw for a read of `BUFLEN`, `TOTAL_LO`, `TOTAL_HI` or `DIGESTn` while
`BUSY = 1` (spec/20_memory.md R79), and for a read that coincides with reset and is lost
(spec/70_reset_and_hazards.md R400). -/
opaque freeRead : Nat → Nat → Word

/-- What a compression leaves in its scratch state, for an engine and its `n`-th draw (spec/10_state.md R30, R44:
"unspecified"). -/
opaque scratchLeft : Nat → Nat → Scratch

/-- The value of a variable that an engine's host has not assigned; the spec gives none. -/
opaque hostVar : Nat → Nat → Word

/-- `REG_BASE` (R5, spec/20_memory.md R70): the host address at which an engine's register window starts.
The platform tells engines apart by it (spec/60_exceptions.md R364). -/
opaque regBase : Nat → Nat

/-- `BUS_BYTE_ORDER` (R5, spec/20_memory.md R77): for each of the four byte addresses of a register, the byte
of the register the host's bus shows there, byte 0 being bits 31:24. -/
opaque busByteOrder : Equiv.Perm (Fin 4)

end Sys2Proof.Config
end

