-- ==== Sys2Proof/Machine/HostSyntax.lean ====
section
/-! DEFINITION. The host's program as data (spec/30_encoding.md R108): its statements over register
offsets, its lines, the names of the registers, and the samples of the reset input
(spec/70_reset_and_hazards.md R400). Variables and labels are numbered. -/

namespace Sys2Proof.Machine

/-- The registers a program names (R108). -/
inductive Reg where
  | id
  | status
  | cmd
  | din
  | errcode
  | buflen
  | totalLo
  | totalHi
  | digest (n : Fin 16)
deriving DecidableEq, Repr

/-- A statement of a host program (R108). An access is at a byte offset of the register window (R7) and
has a width in bits; the statements of R108 make 32-bit accesses only (`CMD` is such a write). -/
inductive HostStmt where
  /-- `WRITE`, and `CMD` -/
  | write (off bits : Nat) (v : Word)
  /-- `READ`, into a variable or dropped -/
  | read (off bits : Nat) (dst : Option Nat)
  /-- `BNZ`: branch if the variable and the mask have a common bit -/
  | bnz (var : Nat) (mask : Word) (label : Nat)
  /-- `BZ`: branch if they have none -/
  | bz (var : Nat) (mask : Word) (label : Nat)
  /-- `GOTO` -/
  | goto (label : Nat)
  /-- `STOP` -/
  | stop
deriving DecidableEq, Repr

/-- A line: an optional label and an optional statement (R108). -/
structure HostLine where
  label : Option Nat
  stmt : Option HostStmt
deriving DecidableEq, Repr

/-- The pseudo-statements (R109); the last argument of `checkErr` is the label branched to. -/
inductive Pseudo where
  | wait
  | push (bytes : List Byte)
  | kpush (bytes : List Byte)
  | finish
  | hash (bytes : List Byte)
  | hmac (key bytes : List Byte)
  | readDigest
  | checkErr (label : Nat)
  | clearErr
deriving DecidableEq, Repr

/-- One sample of the reset input (R400, R4). -/
inductive ResetSample where
  /-- not asserted during this step -/
  | quiet
  /-- asserted between the steps: the host makes no access -/
  | pulse
  /-- asserted together with the host's next access, which is lost (R400, R360); where the host's next
  statement is no access, the same as `pulse` -/
  | pulseOnAccess
deriving DecidableEq, Repr

end Sys2Proof.Machine
end

