-- ==== Sys2Proof/Machine/State.lean ====
section
/-! DEFINITION. The state of the machine: the engine (spec/10_state.md R20, R30), the command in flight,
the host that drives it (spec/00_scope.md R4, spec/30_encoding.md R108) and its reset input; the
reasons a step can stop; and the state after reset (R44). -/

namespace Sys2Proof.Machine

/-- The streaming state (R24). The encoding 3 never occurs and is not a value. -/
inductive Phase where
  | empty
  | accumulating
  | finalized
deriving DecidableEq, Repr

/-- What the byte stream feeds (R25). The encoding 3 never occurs and is not a value. -/
inductive Mode where
  | hash
  | key
  | hmac
deriving DecidableEq, Repr

/-- Why the machine stops with a fault. -/
inductive Fault where
  /-- A host access at an offset outside the 0x100-byte window, the engine's only address space
  (spec/20_memory.md R70). Raised by `admitAccess`. Safe: nothing is claimed of such an access. -/
  | outsideWindow (off : Nat)
deriving DecidableEq, Repr

/-- Why the model refuses a step. -/
inductive Refusal where
  /-- An instruction that has no meaning yet; raised by `exec`'s arm only. Safe. -/
  | notModelled (mnemonic : String)
  /-- A register access that is not 32 bits wide or not at a multiple of 4: the OPEN parameter
  `SUBWORD_ACCESS`, which "the model refuses" (R5, R72). Raised by `admitAccess`. Safe. -/
  | subwordAccess (off bits : Nat)
  /-- The engine is `BUSY` with a `PEND_CMD` that `Decode` rejects: no reachable state has it, since
  acceptance decodes the word first (spec/60_exceptions.md R352). Raised by `engineStep`. Safe. -/
  | pendingNoCommand (w : Word)
  /-- The host program branches to a label that none of its lines has: no program of R108. Raised by
  `branchTo`. Safe. -/
  | noSuchLabel (label : Nat)
deriving DecidableEq, Repr

/-- The whole state. Up to `scratch` it is the spec's record (R20, R30); then come the model's own
fields and the host. -/
structure State where
  /-- `H[0..7]`, the running digest (R21) -/
  h : Vector Pair 8
  /-- `BUF[0..31]`, the pending input bytes (R22) -/
  buf : Vector Word 32
  /-- `BUFLEN`, 0..127 (R22) -/
  buflen : Fin 128
  /-- `TOTAL` (R23) -/
  total : BitVec 64
  /-- `PHASE` (R24) -/
  phase : Phase
  /-- `MODE` (R25) -/
  mode : Mode
  /-- `KEY[0..31]`, the key store (R26) -/
  key : Vector Word 32
  /-- `KEY_VALID` (R26) -/
  keyValid : Bool
  /-- `DIN` (R27) -/
  din : Word
  /-- `ERR` (R28) -/
  err : Bool
  /-- `ERRCODE` (R28) -/
  errcode : BitVec 8
  /-- `BUSY` (R29) -/
  busy : Bool
  /-- `PEND_CMD` (R29) -/
  pendCmd : Word
  /-- `PEND_DIN` (R29) -/
  pendDin : Word
  /-- the compression scratch `a..h`, `W`, `t` (R30) -/
  scratch : Scratch
  /-- host steps left before the engine's step: what remains of `CMD_LATENCY` (R354) -/
  latency : Nat
  /-- the model's own: how many free values have been drawn -/
  draws : Nat
  /-- the model's own: the engine's number in its system, for `REG_BASE` and the free values; no register
  shows it (spec/60_exceptions.md R364) -/
  engine : Nat
  /-- the reset input in the coming steps (R4, R400); once it is empty, not asserted -/
  resetInput : List ResetSample
  /-- the host program (R108) -/
  prog : List HostLine
  /-- the host's position in its program (R32) -/
  hostPc : Nat
  /-- the host's variables, by rising number (R108, R409) -/
  hostVars : List (Nat × Word)
  /-- the host has executed `STOP` (R409) -/
  hostHalted : Bool
deriving DecidableEq, Repr

/-- The scratch at reset: unspecified by R44. DESIGN CHOICE (log entry 2), never read. -/
def scratchAtReset : Scratch :=
  let z : Pair := ⟨0#32, 0#32⟩
  ⟨⟨z, z, z, z, z, z, z, z⟩, Vector.replicate 80 z, 0⟩

/-- The machine right after reset (R44). `pendCmd`, `pendDin` and `scratch` are unspecified there: their
values are DESIGN CHOICES (log entries 1 and 2). No host program is loaded (log entry 7). It is engine 0
(log entry 13). -/
def State.reset : State where
  h := iv
  buf := Vector.replicate 32 0#32
  buflen := 0
  total := 0#64
  phase := .empty
  mode := .hash
  key := Vector.replicate 32 0#32
  keyValid := false
  din := 0#32
  err := false
  errcode := 0#8
  busy := false
  pendCmd := 0#32
  pendDin := 0#32
  scratch := scratchAtReset
  latency := 0
  draws := 0
  engine := 0
  resetInput := []
  prog := []
  hostPc := 0
  hostVars := []
  hostHalted := false

end Sys2Proof.Machine
end

