-- ==== Sys2Proof/Machine/Flags.lean ====
section
/-! DEFINITION. The fields of `STATUS` and the word they make (spec/10_state.md R34). The engine has no
condition codes (spec/42_pair_arith.md R218). -/

namespace Sys2Proof.Machine

/-- The encoding of `PHASE` (R24). -/
def phaseBits : Phase → BitVec 2
  | .empty => 0#2
  | .accumulating => 1#2
  | .finalized => 2#2

/-- The encoding of `MODE` (R25). -/
def modeBits : Mode → BitVec 2
  | .hash => 0#2
  | .key => 1#2
  | .hmac => 2#2

/-- `STATUS = BUSY | ERR << 1 | PHASE << 2 | MODE << 4 | KEY_VALID << 6`; bits 31:7 read 0 (R34). -/
def statusWord (s : State) : Word :=
  0#25 ++ BitVec.ofBool s.keyValid ++ modeBits s.mode ++ phaseBits s.phase ++ BitVec.ofBool s.err ++ BitVec.ofBool s.busy

end Sys2Proof.Machine
end

