-- ==== Sys2Proof/Machine/Operands.lean ====
section
/-! DEFINITION. Byte packing, big-endian everywhere (spec/20_memory.md R75; spec/40_word_buffer.md R130
to R133), and the data operand of a command (spec/30_encoding.md R102). -/

namespace Sys2Proof.Machine

/-- Byte `i mod 4` of a word, byte 0 the most significant (R131): `(w >>> (24 - (i mod 4) * 8)) & 0xFF`. -/
def wordByte (w : Word) (i : Nat) : Byte := (w >>> (24 - i % 4 * 8)).truncate 8

/-- A byte moved to position `p mod 4` of a word (R132): `b << (24 - (p mod 4) * 8)`. -/
def byteAt (b : Byte) (p : Nat) : Word := b.zeroExtend 32 <<< (24 - p % 4 * 8)

/-- Byte `i` of a 128-byte store (R131), for `BUF` and `KEY`. -/
def storeByte (ws : Vector Word 32) (i : Fin 128) : Byte :=
  wordByte (ws[i.val / 4]'(by omega)) i.val

/-- A byte ORed into position `p` of a 128-byte store (R132, R134, R302). -/
def orByte (ws : Vector Word 32) (p : Fin 128) (b : Byte) : Vector Word 32 :=
  ws.set (p.val / 4) (ws[p.val / 4]'(by omega) ||| byteAt b p.val) (by omega)

/-- A store of 128 zero bytes. -/
def zeroStore : Vector Word 32 := Vector.replicate 32 0#32

/-- The positions 0..127 of a store, in order. -/
def positions : List (Fin 128) := List.finRange 128

/-- The 128 bytes of a store, each XORed with `pad` (spec/44_hmac.md R305). -/
def paddedBytes (ws : Vector Word 32) (pad : Byte) : List Byte :=
  positions.map fun i => storeByte ws i ^^^ pad

/-- `DataBytes(PEND_DIN, NB)` (R102): the first `NB` bytes of the word. -/
def dataBytes (w : Word) (nb : BitVec 3) : List Byte :=
  [wordByte w 0, wordByte w 1, wordByte w 2, wordByte w 3].take nb.toNat

/-- The four bytes of a word, most significant first (R75). -/
def bytesOfWord (w : Word) : List Byte := [wordByte w 0, wordByte w 1, wordByte w 2, wordByte w 3]

/-- The 64 bytes of a digest in the order of R76. -/
def digestBytes (h : Vector Pair 8) : List Byte :=
  h.toList.flatMap fun p => bytesOfWord p.hi ++ bytesOfWord p.lo

/-- `KEY` after a key longer than the block (spec/44_hmac.md R303): the digest's 16 words, then zeros. -/
def keyOfDigest (h : Vector Pair 8) : Vector Word 32 := #v[
  h[0].hi, h[0].lo, h[1].hi, h[1].lo, h[2].hi, h[2].lo, h[3].hi, h[3].lo,
  h[4].hi, h[4].lo, h[5].hi, h[5].lo, h[6].hi, h[6].lo, h[7].hi, h[7].lo,
  0#32, 0#32, 0#32, 0#32, 0#32, 0#32, 0#32, 0#32, 0#32, 0#32, 0#32, 0#32, 0#32, 0#32, 0#32, 0#32]

/-- The 16 bytes of the length field, most significant first (spec/41_streaming.md R152, R153). -/
def lengthBytes (bits : Nat) : List Byte :=
  [15, 14, 13, 12, 11, 10, 9, 8, 7, 6, 5, 4, 3, 2, 1, 0].map fun k => BitVec.ofNat 8 (bits >>> (8 * k))

/-- Byte `i` of a Word Buffer (R131); 0 beyond its words. -/
def bufByte (o : WordBuf) (i : Nat) : Byte := wordByte (o.words.getD (i / 4) 0#32) i

/-- The byte sequence a Word Buffer denotes (R130). -/
def bufBytes (o : WordBuf) : List Byte := (List.range o.sigBytes).map (bufByte o)

/-- The words with one byte ORed into position `p`; words beyond the end read as 0 (R132). -/
def orInto (words : List Word) (p : Nat) (b : Byte) : List Word :=
  let ws := words ++ List.replicate (p / 4 + 1 - words.length) 0#32
  ws.set (p / 4) (ws.getD (p / 4) 0#32 ||| byteAt b p)

/-- A Word Buffer with one more byte (one turn of the loop of R132). -/
def appendByte (s : WordBuf) (b : Byte) : WordBuf := ⟨orInto s.words s.sigBytes b, s.sigBytes + 1⟩

/-- `Append(s, o)` (R132). -/
def appendBuf (s o : WordBuf) : WordBuf := (bufBytes o).foldl appendByte s

/-- The invariant of a Word Buffer (R130). -/
def bufCovered (o : WordBuf) : Prop := o.sigBytes ≤ o.words.length * 4

/-- The post-condition of `clamp()` on the words (R133): every byte at or past `sigBytes` is zero. -/
def bufClamped (o : WordBuf) : Prop := ∀ i, o.sigBytes ≤ i → i < o.words.length * 4 → bufByte o i = 0#8

end Sys2Proof.Machine
end

