-- ==== Sys2Proof/Machine/Ops.lean ====
section
/-! DEFINITION. The named operations on the state: the streaming procedures (spec/40_word_buffer.md,
spec/41_streaming.md), the error record and the acceptance of a command
(spec/60_exceptions.md), the register window (spec/10_state.md), reset (spec/70_reset_and_hazards.md). -/

namespace Sys2Proof.Machine

/-! ### The streaming procedures -/

/-- `AbsorbByte(b)` (R134): OR the byte into `BUF`; the 128th byte compresses the block and empties the
buffer. What the compression leaves in its scratch is a free value (R30, R44). -/
def absorbByte (b : Byte) (s : State) : State :=
  let buf := orByte s.buf s.buflen b
  if full : s.buflen.val + 1 < 128 then { s with buf := buf, buflen := ⟨s.buflen.val + 1, full⟩ }
  else
    { s with
      h := compress s.h buf
      buf := zeroStore
      buflen := 0
      scratch := Config.scratchLeft s.engine s.draws
      draws := s.draws + 1 }

/-- `AbsorbByte` for each byte, in order (R151, R152). -/
def absorbBytes (bs : List Byte) (s : State) : State := bs.foldl (fun u b => absorbByte b u) s

/-- `CoreInit()` (R150). -/
def coreInit (s : State) : State :=
  { s with h := iv, buf := zeroStore, buflen := 0, total := 0#64, phase := .empty }

/-- The last lines of `AppendData(d)` (R151): `TOTAL` counts the bytes, and bytes make the phase
ACCUMULATING. -/
def countAppended (d : List Byte) (s : State) : State :=
  { s with total := s.total + BitVec.ofNat 64 d.length, phase := if d.isEmpty then s.phase else .accumulating }

/-- `AppendData(d)` (R151). -/
def appendData (d : List Byte) (s : State) : State := countAppended d (absorbBytes d s)

/-- `while BUFLEN != 112: AbsorbByte(0x00)` (R152), with fuel: the loop runs at most 127 times (R154). -/
def padZeros : Nat → State → State
  | 0, s => s
  | n + 1, s => if s.buflen.val = 112 then s else padZeros n (absorbByte 0x00#8 s)

/-- `Pad()` (R152): 0x80, zeros up to byte 112, then the 128-bit length `8 * TOTAL` (R153). -/
def pad (s : State) : State :=
  absorbBytes (lengthBytes (s.total.toNat * 8)) (padZeros 127 (absorbByte 0x80#8 s))

/-- `IPadKey()` (R305). -/
def ipadKey (s : State) : List Byte := paddedBytes s.key ipadByte

/-- `OPadKey()` (R305). -/
def opadKey (s : State) : List Byte := paddedBytes s.key opadByte

/-- The key bytes kept in `KEY` (R302): byte `j` goes to position `p = TOTAL + j` while `p < 128`. -/
def storeKeyBytes : List Byte → Nat → Vector Word 32 → Vector Word 32
  | [], _, key => key
  | b :: bs, p, key => storeKeyBytes bs (p + 1) (if h : p < 128 then orByte key ⟨p, h⟩ b else key)

/-- The storing part of `KEY_UPDATE` (R302). -/
def storeKeyData (d : List Byte) (s : State) : State :=
  { s with key := storeKeyBytes d s.total.toNat s.key }

/-- `KEY[0..15] <- H`, `KEY[16..31] <- 0` (R303). -/
def storeDigestKey (s : State) : State := { s with key := keyOfDigest s.h }

/-- `KEY <- 0`, `KEY_VALID <- 0` (R301). -/
def clearKey (s : State) : State := { s with key := zeroStore, keyValid := false }

/-- `KEY_VALID <- 1` (R303). -/
def validateKey (s : State) : State := { s with keyValid := true }

/-- `MODE <- m`. -/
def setMode (m : Mode) (s : State) : State := { s with mode := m }

/-- `PHASE <- FINALIZED` (R157, R307). -/
def markFinalized (s : State) : State := { s with phase := .finalized }

/-- `HmacFinal(d)` (R307). -/
def hmacFinal (d : List Byte) (s : State) : State :=
  let inner := pad (appendData d s)
  let outer := appendData (opadKey inner) (coreInit inner)
  markFinalized (pad (appendData (digestBytes inner.h) outer))

/-! ### The error record and acceptance -/

/-- `raise Error(code)` (R353): the one form of exception the engine has. The first code is kept; nothing
is saved and no control is transferred (R350, R359). -/
def raiseError (e : ErrCode) (s : State) : State :=
  { s with errcode := if s.err then s.errcode else e.code, err := true }

/-- The host's clearing of the error record, by any write to `ERRCODE` (R37, R355). The engine has no
other return from an error (R359). -/
def clearError (s : State) : State := { s with err := false, errcode := 0#8 }

/-- `TOTAL + nb > 2^64 - 1` (R352). -/
def lengthOverflows (nb : BitVec 3) (s : State) : Bool := decide (totalMax < s.total.toNat + nb.toNat)

/-- The state-dependent checks of R352 on a decoded command, in the rule's order. -/
def acceptError (i : Instr) (s : State) : Option ErrCode :=
  match i with
  | .init => none
  | .update nb =>
    if s.mode = .key then some .mode
    else if s.phase = .finalized then some .finalized
    else if lengthOverflows nb s then some .lenOvf
    else none
  | .final nb =>
    if s.mode = .key then some .mode
    else if s.phase = .finalized then some .finalized
    else if lengthOverflows nb s then some .lenOvf
    else none
  | .keyBegin => none
  | .keyUpdate nb =>
    if s.mode ≠ .key then some .mode
    else if lengthOverflows nb s then some .lenOvf
    else none
  | .hmacStart => if s.mode ≠ .key then some .mode else none
  | .hmacReset => if s.keyValid = false then some .noKey else none

/-- The last lines of R352: latch the word and `DIN`, set `BUSY`. `CMD_LATENCY` is drawn (R354). -/
def latchCommand (w : Word) (s : State) : State :=
  { s with
    pendCmd := w
    pendDin := s.din
    busy := true
    latency := Config.cmdLatency s.engine s.draws
    draws := s.draws + 1 }

/-- `OnCmdWrite(w)` (R352). -/
def onCmdWrite (w : Word) (s : State) : State :=
  if s.busy then raiseError .busy s
  else
    match decode w with
    | .error e => raiseError e s
    | .ok i =>
      match acceptError i s with
      | some e => raiseError e s
      | none => latchCommand w s

/-- The end of `EngineStep` (R354): `BUSY <- 0`. -/
def finishCommand (s : State) : State := { s with busy := false }

/-! ### The register window -/

/-- A write to `DIN` (R27, R36). -/
def setDin (v : Word) (s : State) : State := { s with din := v }

/-- One free value has been drawn. -/
def countDraw (s : State) : State := { s with draws := s.draws + 1 }

/-- The offset of a register (R33 to R40). -/
def regOffset : Reg → Nat
  | .id => 0x000
  | .status => 0x004
  | .cmd => 0x008
  | .din => 0x00C
  | .errcode => 0x010
  | .buflen => 0x014
  | .totalLo => 0x018
  | .totalHi => 0x01C
  | .digest n => 0x040 + 4 * n.val

/-- `DIGEST(2i) = H[i].hi`, `DIGEST(2i+1) = H[i].lo` (R40). -/
def digestWord (h : Vector Pair 8) (n : Fin 16) : Word :=
  let p := h[n.val / 2]'(by omega)
  if n.val % 2 = 0 then p.hi else p.lo

/-- Digest byte `n` as the host computes it from the window (spec/20_memory.md R76). -/
def digestByte (h : Vector Pair 8) (n : Fin 64) : Byte := wordByte (digestWord h ⟨n.val / 4, by omega⟩) n.val

/-- A read that answers the register's value, or a free draw while `BUSY = 1` (R79). -/
def busyOr (v : Word) (s : State) : Word × State :=
  if s.busy then (Config.freeRead s.engine s.draws, countDraw s) else (v, s)

/-- `RegRead(off)` at an admitted offset (R33 to R41). A read has no side effect (R74); only the count of
free draws moves. -/
def regRead (off : Nat) (s : State) : Word × State :=
  if off = 0x000 then (idValue, s)
  else if off = 0x004 then (statusWord s, s)
  else if off = 0x008 then (0#32, s)
  else if off = 0x00C then (s.din, s)
  else if off = 0x010 then (s.errcode.zeroExtend 32, s)
  else if off = 0x014 then busyOr (BitVec.ofNat 32 s.buflen.val) s
  else if off = 0x018 then busyOr (s.total.extractLsb' 0 32) s
  else if off = 0x01C then busyOr (s.total.extractLsb' 32 32) s
  else if h : 0x040 ≤ off ∧ off ≤ 0x07F then busyOr (digestWord s.h ⟨(off - 0x040) / 4, by omega⟩) s
  else (0#32, s)

/-- `RegWrite(off, v)` at an admitted offset (R74): `CMD`, `DIN` and `ERRCODE` act, every other write is
ignored (R33 to R41, R357). -/
def regWrite (off : Nat) (v : Word) (s : State) : State :=
  if off = 0x008 then onCmdWrite v s
  else if off = 0x00C then setDin v s
  else if off = 0x010 then clearError s
  else s

/-- Whether the window admits an access: inside it (R70), 32 bits wide and aligned (R72). The next state,
or why the access stops. -/
def admitAccess (off bits : Nat) (next : State) : Host.Outcome State Fault Refusal :=
  if regWindow ≤ off then .fault (.outsideWindow off)
  else if bits ≠ 32 ∨ off % 4 ≠ 0 then .refused (.subwordAccess off bits)
  else .next next

/-- The host address of an offset in an engine's window (R70). -/
def hostAddress (engine off : Nat) : Nat := Config.regBase engine + off

/-- The offset of a host address in an engine's window, if it lies there (R70). -/
def windowOffset (engine addr : Nat) : Option Nat :=
  if Config.regBase engine ≤ addr ∧ addr < Config.regBase engine + regWindow then some (addr - Config.regBase engine)
  else none

/-- The byte the host's bus shows at byte address `k` of a register with value `v` (R77). -/
def busByte (v : Word) (k : Fin 4) : Byte := wordByte v (Config.busByteOrder k).val

/-- The number a 32-bit access carries when the bytes at its byte addresses are `f` (R77). -/
def busWord (f : Fin 4 → Byte) : Word :=
  let byteAtPlace := fun i => f (Config.busByteOrder.symm i)
  byteAtPlace 0 ++ byteAtPlace 1 ++ byteAtPlace 2 ++ byteAtPlace 3

/-- What a host does to a word it loaded from a byte buffer before it writes it to `DIN` (R77): the first byte
goes to bits 31:24, whatever the bus's byte order; on a little-endian bus it is the byte swap. -/
def orderForDin (v : Word) : Word := busByte v 0 ++ busByte v 1 ++ busByte v 2 ++ busByte v 3

/-! ### Reset, and the fetch of the command in flight -/

/-- Reset (R400, R44): every element of the engine takes its reset value and a command in flight is
abandoned. The host, the reset input, the count of draws and the engine's number are not reset. -/
def resetEngine (s : State) : State :=
  { State.reset with
    draws := s.draws
    engine := s.engine
    resetInput := s.resetInput
    prog := s.prog
    hostPc := s.hostPc
    hostVars := s.hostVars
    hostHalted := s.hostHalted }

/-- The word the engine's step executes: the command in flight (R29, R354). -/
def fetchWord (s : State) : Word := s.pendCmd

end Sys2Proof.Machine
end

