-- ==== Sys2Proof/Machine/Hmac.lean ====
section
/-! DEFINITION. The meanings of `KEY_BEGIN`, `KEY_UPDATE`, `HMAC_START` and `HMAC_RESET`
(spec/44_hmac.md R301 to R306), as `Execute` runs them on an accepted command. -/

namespace Sys2Proof.Machine

/-- `KEY_BEGIN` (R301). -/
def execKeyBegin (s : State) : Host.Outcome State Fault Refusal :=
  .next (setMode .key (clearKey (coreInit s)))

/-- `KEY_UPDATE` (R302): keep the first 128 key bytes, and hash the key as it arrives. -/
def execKeyUpdate (nb : BitVec 3) (s : State) : Host.Outcome State Fault Refusal :=
  .next (appendData (dataBytes s.pendDin nb) (storeKeyData (dataBytes s.pendDin nb) s))

/-- Forming K0 (R303, R304): a key longer than the block is replaced by its digest. -/
def formKey (s : State) : State :=
  if 128 < s.total.toNat then storeDigestKey (pad s) else s

/-- `CoreInit()` and `AppendData(IPadKey())`, the common end of R303 and R306. -/
def absorbInnerKey (s : State) : State :=
  appendData (ipadKey s) (coreInit s)

/-- `HMAC_START` (R303). -/
def execHmacStart (s : State) : Host.Outcome State Fault Refusal :=
  .next (absorbInnerKey (setMode .hmac (validateKey (formKey s))))

/-- `HMAC_RESET` (R306). -/
def execHmacReset (s : State) : Host.Outcome State Fault Refusal :=
  .next (setMode .hmac (absorbInnerKey s))

end Sys2Proof.Machine
end

