-- ==== Sys2Proof/Machine/Streaming.lean ====
section
/-! DEFINITION. The meanings of `INIT`, `UPDATE` and `FINAL` (spec/41_streaming.md R155 to R157), as
`Execute` runs them on an accepted command (spec/60_exceptions.md R354). -/

namespace Sys2Proof.Machine

/-- `INIT` (R155): `KEY` and `KEY_VALID` are kept. -/
def execInit (s : State) : Host.Outcome State Fault Refusal :=
  .next (setMode .hash (coreInit s))

/-- `UPDATE` (R156). -/
def execUpdate (nb : BitVec 3) (s : State) : Host.Outcome State Fault Refusal :=
  .next (appendData (dataBytes s.pendDin nb) s)

/-- `FINAL` (R157): a plain finalization in `MODE = HASH`, `HmacFinal` otherwise (R307). -/
def execFinal (nb : BitVec 3) (s : State) : Host.Outcome State Fault Refusal :=
  if s.mode = .hash then .next (markFinalized (pad (appendData (dataBytes s.pendDin nb) s)))
  else .next (hmacFinal (dataBytes s.pendDin nb) s)

end Sys2Proof.Machine
end

