-- ==== Sys2Proof/Machine/Dispatch.lean ====
section
/-! DEFINITION. `Execute` (spec/60_exceptions.md R354): one arm for each command. -/

namespace Sys2Proof.Machine

def exec (i : Instr) (s : State) : Host.Outcome State Fault Refusal :=
  match i with
  | .init => Sys2Proof.Machine.execInit s
  | .update nb => Sys2Proof.Machine.execUpdate nb s
  | .final nb => Sys2Proof.Machine.execFinal nb s
  | .keyBegin => Sys2Proof.Machine.execKeyBegin s
  | .keyUpdate nb => Sys2Proof.Machine.execKeyUpdate nb s
  | .hmacStart => Sys2Proof.Machine.execHmacStart s
  | .hmacReset => Sys2Proof.Machine.execHmacReset s

end Sys2Proof.Machine
end

