-- ==== Sys2Proof/Machine/Engine.lean ====
section
/-! DEFINITION. The engine's step (spec/60_exceptions.md R354). -/

namespace Sys2Proof.Machine

/-- `EngineStep()` (R354), enabled only when `BUSY = 1`: execute the command in flight, then
`BUSY <- 0`, as one atomic step. -/
def engineStep (s : State) : Host.Outcome State Fault Refusal :=
  match decode (fetchWord s) with
  | .error _ => .refused (.pendingNoCommand (fetchWord s))
  | .ok i =>
    match exec i s with
    | .next t => .next (finishCommand t)
    | .fault r => .fault r
    | .refused r => .refused r

end Sys2Proof.Machine
end

