-- ==== Sys2Proof/Machine/HostAgent.lean ====
section
/-! DEFINITION. The host as the agent that drives the register window (spec/00_scope.md R4): its
statements (spec/30_encoding.md R108), one for each host step, and the expansion of the
pseudo-statements (R109). -/

namespace Sys2Proof.Machine

/-! ### Variables and labels -/

/-- The value of a host variable; one that the engine's host never assigned has a free value. -/
def getVar (engine : Nat) (vars : List (Nat × Word)) (x : Nat) : Word :=
  match vars with
  | [] => Config.hostVar engine x
  | (y, v) :: rest => if x = y then v else getVar engine rest x

/-- Assign a variable; the list stays sorted by number, without repeats. -/
def setVar (vars : List (Nat × Word)) (x : Nat) (v : Word) : List (Nat × Word) :=
  match vars with
  | [] => [(x, v)]
  | (y, u) :: rest =>
    if x < y then (x, v) :: (y, u) :: rest
    else if x = y then (x, v) :: rest
    else (y, u) :: setVar rest x v

/-- Assign the variable of a `READ`, if it names one (R108). -/
def assignRead (dst : Option Nat) (v : Word) (s : State) : State :=
  match dst with
  | none => s
  | some x => { s with hostVars := setVar s.hostVars x v }

/-- The position of the first line with the label. -/
def labelIndex (prog : List HostLine) (l : Nat) : Option Nat :=
  prog.findIdx? (fun line => decide (line.label = some l))

/-- `GOTO` (R108). -/
def branchTo (l : Nat) (s : State) : Host.Outcome State Fault Refusal :=
  match labelIndex s.prog l with
  | some k => .next { s with hostPc := k }
  | none => .refused (.noSuchLabel l)

/-- The host goes on to the next line. -/
def hostNext (s : State) : State := { s with hostPc := s.hostPc + 1 }

/-- Whether the variable and the mask have a common bit (R108). -/
def maskHit (s : State) (x : Nat) (mask : Word) : Bool := decide (getVar s.engine s.hostVars x &&& mask ≠ 0#32)

/-! ### One host step -/

/-- One statement (R108). -/
def hostExec (st : HostStmt) (s : State) : Host.Outcome State Fault Refusal :=
  match st with
  | .write off bits v => admitAccess off bits (hostNext (regWrite off v s))
  | .read off bits dst =>
    let r := regRead off s
    admitAccess off bits (hostNext (assignRead dst r.1 r.2))
  | .bnz x mask l => if maskHit s x mask then branchTo l s else .next (hostNext s)
  | .bz x mask l => if maskHit s x mask then .next (hostNext s) else branchTo l s
  | .goto l => branchTo l s
  | .stop => .next { s with hostHalted := true }

/-- The statement the host is about to execute: none after `STOP`, past the last line, or on a line that
has only a label. -/
def currentStmt (s : State) : Option HostStmt :=
  if s.hostHalted then none
  else
    match s.prog[s.hostPc]? with
    | none => none
    | some line => line.stmt

/-- Whether the host stands on a line of its program. -/
def hostOnLine (s : State) : Bool := decide (s.hostHalted = false ∧ s.hostPc < s.prog.length)

/-- One host step. A line without a statement is passed over; a host that has stopped, or has run past its
last line, makes no access. -/
def hostStep (s : State) : Host.Outcome State Fault Refusal :=
  match currentStmt s with
  | some st => hostExec st s
  | none => .next (if hostOnLine s then hostNext s else s)

/-- The host's side of an access that coincides with reset: the access is lost (R400) and the host goes on.
DESIGN CHOICE (log entry 5): a lost read assigns a free value; an access that the window would not admit is
lost like any other, so no stop beats the reset; a statement that is no access waits for the next step. -/
def loseAccess (s : State) : State :=
  match currentStmt s with
  | some (.write _ _ _) => hostNext s
  | some (.read _ _ dst) => hostNext (assignRead dst (Config.freeRead s.engine s.draws) (countDraw s))
  | some (.bnz _ _ _) => s
  | some (.bz _ _ _) => s
  | some (.goto _) => s
  | some .stop => s
  | none => s

/-- The host's turn while a command is in flight uses up one host step of its latency (R354). -/
def countHostStep (s : State) : State := { s with latency := s.latency - 1 }

/-! ### Pseudo-statements -/

/-- The number the expansions use for the host variable `s` of `WAIT` and `CHECKERR`. -/
def varStatus : Nat := 0

/-- The number the expansion of `READDIGEST` uses for the host variable `d<n>`. -/
def varDigest (n : Nat) : Nat := 16 + n

/-- `WRITE reg, v` (R108). -/
def writeReg (r : Reg) (v : Word) : HostLine := ⟨none, some (.write (regOffset r) 32 v)⟩

/-- `READ reg -> x` (R108). -/
def readReg (r : Reg) (x : Nat) : HostLine := ⟨none, some (.read (regOffset r) 32 (some x))⟩

/-- `CMD mnemonic nb=…` (R108): a write of the command word to `CMD`. -/
def cmdLine (i : Instr) : HostLine := writeReg .cmd (encode i)

/-- `WAIT` with the fresh label `l` (R109). -/
def expandWait (l : Nat) : List HostLine :=
  [⟨some l, some (.read (regOffset .status) 32 (some varStatus))⟩, ⟨none, some (.bnz varStatus 1#32 l)⟩]

/-- Consecutive chunks of four bytes, the last of 1 to 3 (R109). -/
def chunks : List Byte → List (List Byte)
  | a :: b :: c :: d :: rest => [a, b, c, d] :: chunks rest
  | [] => []
  | [a] => [[a]]
  | [a, b] => [[a, b]]
  | [a, b, c] => [[a, b, c]]

/-- A chunk packed big-endian, padded with zero bytes on the right (R109). -/
def packBytes (bs : List Byte) : Word :=
  byteAt (bs.getD 0 0#8) 0 ||| byteAt (bs.getD 1 0#8) 1 ||| byteAt (bs.getD 2 0#8) 2 ||| byteAt (bs.getD 3 0#8) 3

/-- `PUSH` and `KPUSH` (R109): for each chunk a `DIN` write, the data command, a `WAIT`. Labels from `l`. -/
def expandPush (cmd : BitVec 3 → Instr) : List (List Byte) → Nat → List HostLine
  | [], _ => []
  | c :: rest, l =>
    [writeReg .din (packBytes c), cmdLine (cmd (BitVec.ofNat 3 c.length))] ++ expandWait l ++ expandPush cmd rest (l + 1)

/-- `FINISH` (R109). -/
def expandFinish (l : Nat) : List HostLine := cmdLine (.final 0#3) :: expandWait l

/-- The expansion of a pseudo-statement whose fresh labels are `l`, `l + 1`, … (R109). -/
def expand (p : Pseudo) (l : Nat) : List HostLine :=
  match p with
  | .wait => expandWait l
  | .push bs => expandPush .update (chunks bs) l
  | .kpush bs => expandPush .keyUpdate (chunks bs) l
  | .finish => expandFinish l
  | .hash bs => cmdLine .init :: expandWait l ++ expandPush .update (chunks bs) (l + 2) ++ expandFinish (l + 1)
  | .hmac k bs =>
    cmdLine .keyBegin :: expandWait l ++ expandPush .keyUpdate (chunks k) (l + 3)
      ++ cmdLine .hmacStart :: expandWait (l + 1)
      ++ expandPush .update (chunks bs) (l + 3 + (chunks k).length) ++ expandFinish (l + 2)
  | .readDigest => (List.finRange 16).map fun n => readReg (.digest n) (varDigest n.val)
  | .checkErr target =>
    [readReg .status varStatus, ⟨none, some (.bnz varStatus 2#32 target)⟩]
  | .clearErr => [writeReg .errcode 0#32]

end Sys2Proof.Machine
end

