-- ==== Sys2Proof/Machine/Step.lean ====
section
/-! DEFINITION. One step of the machine (spec/00_scope.md R4, spec/20_memory.md R78): a reset, the engine's
step, or one host step. -/

namespace Sys2Proof.Machine

/-- A step without reset: the engine's, when a command is in flight and its latency has passed (R354);
otherwise the host's. -/
def advance (s : State) : Host.Outcome State Fault Refusal :=
  if s.busy then
    if s.latency = 0 then engineStep s else hostStep (countHostStep s)
  else hostStep s

/-- The reset input of this step is taken off the list. -/
def consumeSample (s : State) : State := { s with resetInput := s.resetInput.tail }

/-- One step. Reset wins over a command and over any access, also one that the window would not admit
(R360, R400; log entry 5). -/
def step (s : State) : Host.Outcome State Fault Refusal :=
  match s.resetInput with
  | [] => advance s
  | .quiet :: _ => advance (consumeSample s)
  | .pulse :: _ => .next (resetEngine (consumeSample s))
  | .pulseOnAccess :: _ => .next (resetEngine (loseAccess (consumeSample s)))

/-- A state whose very next step executes the command word `w` as the command in flight: `BUSY = 1`, no
latency left, reset not asserted (log entry 9). -/
def State.withFetchWord (s : State) (nbits w : Nat) : State :=
  { s with
    pendCmd := BitVec.ofNat 32 (w % 2 ^ nbits)
    busy := true
    latency := 0
    resetInput := .quiet :: s.resetInput }

end Sys2Proof.Machine
end

