-- ==== Sys2Proof/Machine/Assembler.lean ====
section
/-! DEFINITION. The text of host programs (spec/30_encoding.md R108, R109): from characters to the lines
the host executes. A text the syntax does not admit has no program. What the syntax leaves open is
log entry 19. -/

namespace Sys2Proof.Machine

/-! ### Tokens -/

/-- A token of one line. -/
inductive Token where
  /-- a name or a number -/
  | word (w : List Char)
  /-- a quoted ASCII string, as its bytes (R109) -/
  | ascii (bytes : List Byte)
  /-- `h'…'`, as its bytes (R109) -/
  | hex (bytes : List Byte)
  | comma
  | colon
  | equals
  | arrow
  | star
deriving DecidableEq, Repr

/-- What the characters being read belong to. -/
inductive LexMode where
  | plain
  | quoted
  | hexBytes
  | dash
deriving DecidableEq, Repr

/-- The double quote. -/
def quoteChar : Char := Char.ofNat 34

/-- The apostrophe. -/
def tickChar : Char := Char.ofNat 39

/-- The value of a digit in bases up to 16. -/
def digitValue (c : Char) : Option Nat :=
  let n := c.toNat
  if 48 ≤ n ∧ n ≤ 57 then some (n - 48)
  else if 97 ≤ n ∧ n ≤ 102 then some (n - 87)
  else if 65 ≤ n ∧ n ≤ 70 then some (n - 55)
  else none

/-- Pairs of hexadecimal digits as bytes. -/
def hexPairs : List Char → Option (List Byte)
  | [] => some []
  | [_] => none
  | a :: b :: rest =>
    match digitValue a, digitValue b, hexPairs rest with
    | some x, some y, some bs => some (BitVec.ofNat 8 (16 * x + y) :: bs)
    | _, _, _ => none

/-- The word read so far, if any, as a token in front of the earlier ones. -/
def endWord (acc : List Char) (ts : List Token) : List Token :=
  if acc.isEmpty then ts else .word acc.reverse :: ts

/-- The punctuation of R108 and R109. -/
def punctuation (c : Char) : Option Token :=
  if c = ',' then some .comma
  else if c = ':' then some .colon
  else if c = '=' then some .equals
  else if c = '*' then some .star
  else none

/-- The tokens of a line, up to its comment. `acc` and `ts` hold what was read, last first. R108 does not say
what separates tokens: space, tab and carriage return are a DESIGN CHOICE (log entry 19). -/
def lexLine (mode : LexMode) (acc : List Char) (ts : List Token) : List Char → Option (List Token)
  | [] =>
    match mode with
    | .plain => some (endWord acc ts).reverse
    | _ => none
  | c :: cs =>
    match mode with
    | .plain =>
      if c = ';' then some (endWord acc ts).reverse
      else if c = ' ' ∨ c = '\t' ∨ c = '\r' then lexLine .plain [] (endWord acc ts) cs
      else if c = '-' then lexLine .dash [] (endWord acc ts) cs
      else if c = quoteChar then lexLine .quoted [] (endWord acc ts) cs
      else if c = tickChar then
        if acc = ['h'] then lexLine .hexBytes [] ts cs else none
      else
        match punctuation c with
        | some t => lexLine .plain [] (t :: endWord acc ts) cs
        | none => if c.isAlphanum ∨ c = '_' then lexLine .plain (c :: acc) ts cs else none
    | .quoted =>
      if c = quoteChar then lexLine .plain [] (.ascii (acc.reverse.map fun x => BitVec.ofNat 8 x.toNat) :: ts) cs
      else if c.toNat < 128 then lexLine .quoted (c :: acc) ts cs
      else none
    | .hexBytes =>
      if c = tickChar then
        match hexPairs acc.reverse with
        | some bs => lexLine .plain [] (.hex bs :: ts) cs
        | none => none
      else lexLine .hexBytes (c :: acc) ts cs
    | .dash => if c = '>' then lexLine .plain [] (.arrow :: ts) cs else none

/-! ### Numbers and names -/

/-- The number with these digits in a base; none without digits. -/
def numberIn (base : Nat) (ds : List Char) : Option Nat :=
  if ds.isEmpty then none
  else
    ds.foldl
      (fun acc c =>
        match acc, digitValue c with
        | some n, some d => if d < base then some (base * n + d) else none
        | _, _ => none)
      (some 0)

/-- A number, hexadecimal after `0x` and decimal otherwise (R6, R108). -/
def numberOf (w : List Char) : Option Nat :=
  match w with
  | '0' :: 'x' :: ds => numberIn 16 (ds.filter fun c => decide (c ≠ '_'))
  | _ => numberIn 10 w

/-- `imm32` and `mask` (R108): a number that a word holds. -/
def wordOf (w : List Char) : Option Word :=
  match numberOf w with
  | some n => if n < 2 ^ 32 then some (BitVec.ofNat 32 n) else none
  | none => none

/-- A number for a name, different for different names; not 0 unless the name is empty. -/
def nameCode (w : List Char) : Nat := w.foldl (fun n c => n * 2 ^ 21 + c.toNat + 1) 0

/-- A name starts with a letter or `_`. -/
def isName (w : List Char) : Bool :=
  match w with
  | [] => false
  | c :: _ => c.isAlpha || c == '_'

/-- The number of a host variable: `s` and `d0` to `d15` as the expansions of R109 number them. -/
def varNumber (w : List Char) : Nat :=
  if w = ['s'] then varStatus
  else
    match (List.range 16).find? fun n => decide (w = 'd' :: Nat.toDigits 10 n) with
    | some n => varDigest n
    | none => 32 + nameCode w

/-- `reg` (R108). -/
def regNamed (w : List Char) : Option Reg :=
  let plain : List (String × Reg) :=
    [("ID", .id), ("STATUS", .status), ("CMD", .cmd), ("DIN", .din), ("ERRCODE", .errcode), ("BUFLEN", .buflen),
     ("TOTAL_LO", .totalLo), ("TOTAL_HI", .totalHi)]
  match plain.find? fun e => decide (w = e.1.toList) with
  | some e => some e.2
  | none =>
    match (List.finRange 16).find? fun n => decide (w = "DIGEST".toList ++ Nat.toDigits 10 n.val) with
    | some n => some (.digest n)
    | none => none

/-- The opcode of a mnemonic (R103). -/
def opcodeNamed (w : List Char) : Option (BitVec 8) :=
  let all : List Instr := [.init, .update 0#3, .final 0#3, .keyBegin, .keyUpdate 0#3, .hmacStart, .hmacReset]
  match all.find? fun i => decide (w = (mnemonicOf i).toList) with
  | some i => some (opcodeOf i)
  | none => none

/-! ### Statements -/

/-- A statement or a pseudo-statement (R108). -/
inductive SourceStmt where
  | stmt (st : HostStmt)
  | pseudo (p : Pseudo)
deriving DecidableEq, Repr

/-- A line of the text (R108). -/
structure SourceLine where
  label : Option Nat
  body : Option SourceStmt
deriving DecidableEq, Repr

/-- `CMD` as the write it is (R108), with the fields of R100. -/
def cmdWrite (op : BitVec 8) (nb : BitVec 3) : SourceStmt :=
  .stmt (.write (regOffset .cmd) 32 (0#21 ++ nb ++ op))

/-- The operand of a `CMD` statement: `nb=` may be omitted and then means `nb=0` (R108). -/
def parseCmd (ts : List Token) : Option SourceStmt :=
  match ts with
  | [.word m] => (opcodeNamed m).map fun op => cmdWrite op 0#3
  | [.word m, .word ['n', 'b'], .equals, .word [d]] =>
    match opcodeNamed m, digitValue d with
    | some op, some n => if n < 8 then some (cmdWrite op (BitVec.ofNat 3 n)) else none
    | _, _ => none
  | _ => none

/-- `reg "," imm32` -/
def parseWrite (ts : List Token) : Option SourceStmt :=
  match ts with
  | [.word r, .comma, .word v] =>
    match regNamed r, wordOf v with
    | some r, some v => some (.stmt (.write (regOffset r) 32 v))
    | _, _ => none
  | _ => none

/-- `reg [ "->" var ]` -/
def parseRead (ts : List Token) : Option SourceStmt :=
  match ts with
  | [.word r] => (regNamed r).map fun r => .stmt (.read (regOffset r) 32 none)
  | [.word r, .arrow, .word x] =>
    if isName x then (regNamed r).map fun r => .stmt (.read (regOffset r) 32 (some (varNumber x))) else none
  | _ => none

/-- `var "," mask "," label`, the operands of the two conditional branches -/
def parseBranch (mk : Nat → Word → Nat → HostStmt) (ts : List Token) : Option SourceStmt :=
  match ts with
  | [.word x, .comma, .word m, .comma, .word l] =>
    if isName x && isName l then (wordOf m).map fun m => .stmt (mk (varNumber x) m (nameCode l)) else none
  | _ => none

/-- A label alone. -/
def parseLabel (ts : List Token) : Option Nat :=
  match ts with
  | [.word l] => if isName l then some (nameCode l) else none
  | _ => none

/-- `<bytes>` at the front of the tokens (R109): a string, hexadecimal bytes, or copies of one byte. R109 does
not say how the number of copies is written: decimal or `0x` hexadecimal is a DESIGN CHOICE (log entry
19). -/
def parseBytes (ts : List Token) : Option (List Byte × List Token) :=
  match ts with
  | .ascii bs :: rest => some (bs, rest)
  | .hex bs :: rest => some (bs, rest)
  | .word n :: .star :: .hex [b] :: rest => (numberOf n).map fun k => (List.replicate k b, rest)
  | _ => none

/-- `<bytes>` and nothing more. -/
def parseOneBytes (mk : List Byte → Pseudo) (ts : List Token) : Option SourceStmt :=
  match parseBytes ts with
  | some (bs, []) => some (.pseudo (mk bs))
  | _ => none

/-- `<key>, <bytes>` -/
def parseHmac (ts : List Token) : Option SourceStmt :=
  match parseBytes ts with
  | some (key, .comma :: rest) => parseOneBytes (.hmac key) rest
  | _ => none

/-- A statement without operands. -/
def parseNone (st : SourceStmt) (ts : List Token) : Option SourceStmt := if ts.isEmpty then some st else none

/-- The statement named `w` with these operands (R108, R109). -/
def parseStmt (w : List Char) (ts : List Token) : Option SourceStmt :=
  if w = "WRITE".toList then parseWrite ts
  else if w = "READ".toList then parseRead ts
  else if w = "CMD".toList then parseCmd ts
  else if w = "BNZ".toList then parseBranch .bnz ts
  else if w = "BZ".toList then parseBranch .bz ts
  else if w = "GOTO".toList then (parseLabel ts).map fun l => .stmt (.goto l)
  else if w = "STOP".toList then parseNone (.stmt .stop) ts
  else if w = "WAIT".toList then parseNone (.pseudo .wait) ts
  else if w = "PUSH".toList then parseOneBytes .push ts
  else if w = "KPUSH".toList then parseOneBytes .kpush ts
  else if w = "FINISH".toList then parseNone (.pseudo .finish) ts
  else if w = "HASH".toList then parseOneBytes .hash ts
  else if w = "HMAC".toList then parseHmac ts
  else if w = "READDIGEST".toList then parseNone (.pseudo .readDigest) ts
  else if w = "CHECKERR".toList then (parseLabel ts).map fun l => .pseudo (.checkErr l)
  else if w = "CLEARERR".toList then parseNone (.pseudo .clearErr) ts
  else none

/-- `[ stmt ]` -/
def parseBody (label : Option Nat) (ts : List Token) : Option SourceLine :=
  match ts with
  | [] => some ⟨label, none⟩
  | .word w :: rest => (parseStmt w rest).map fun b => ⟨label, some b⟩
  | _ => none

/-- `[ label ":" ] [ stmt ] [ ";" comment ]` -/
def parseLine (text : List Char) : Option SourceLine :=
  match lexLine .plain [] [] text with
  | none => none
  | some (.word l :: .colon :: rest) => if isName l then parseBody (some (nameCode l)) rest else none
  | some ts => parseBody none ts

/-! ### Programs -/

/-- The lines of a text; `acc` is the line being read, last character first. -/
def splitLines (acc : List Char) : List Char → List (List Char)
  | [] => [acc.reverse]
  | c :: cs => if c = '\n' then acc.reverse :: splitLines [] cs else splitLines (c :: acc) cs

/-- How many fresh labels an expansion uses (R109). -/
def freshLabels : Pseudo → Nat
  | .wait => 1
  | .push bs => (chunks bs).length
  | .kpush bs => (chunks bs).length
  | .finish => 1
  | .hash bs => 2 + (chunks bs).length
  | .hmac k bs => 3 + (chunks k).length + (chunks bs).length
  | .readDigest => 0
  | .checkErr _ => 0
  | .clearErr => 0

/-- The lines with every pseudo-statement expanded, its fresh labels from `l` on. The label of a
pseudo-statement stands on a line of its own before the expansion. -/
def expandLines : List SourceLine → Nat → List HostLine
  | [], _ => []
  | ⟨label, none⟩ :: rest, l => ⟨label, none⟩ :: expandLines rest l
  | ⟨label, some (.stmt st)⟩ :: rest, l => ⟨label, some st⟩ :: expandLines rest l
  | ⟨label, some (.pseudo p)⟩ :: rest, l =>
    (if label.isSome then [⟨label, none⟩] else []) ++ expand p l ++ expandLines rest (l + freshLabels p)

/-- The label a statement branches to; 0, which is no name's number, for the others. -/
def branchLabel : SourceStmt → Nat
  | .stmt (.bnz _ _ l) => l
  | .stmt (.bz _ _ l) => l
  | .stmt (.goto l) => l
  | .stmt (.write _ _ _) => 0
  | .stmt (.read _ _ _) => 0
  | .stmt .stop => 0
  | .pseudo (.checkErr l) => l
  | .pseudo _ => 0

/-- A number above every label a line carries or branches to. -/
def labelAbove (line : SourceLine) : Nat := max (line.label.getD 0) ((line.body.map branchLabel).getD 0) + 1

/-- The program of a text (R108, R109): fresh labels are above every label of the text. -/
def assemble (text : List Char) : Option (List HostLine) :=
  match (splitLines [] text).mapM parseLine with
  | none => none
  | some lines => some (expandLines lines ((lines.map labelAbove).foldl max 1))

/-- A state with this host program loaded and the host at its start (log entry 7). -/
def State.withProgram (s : State) (p : List HostLine) : State :=
  { s with prog := p, hostPc := 0, hostHalted := false }

end Sys2Proof.Machine
end

