-- ==== Sys2Proof/Machine/Reference.lean ====
section
/-! DEFINITION. What the engine is to compute, as functions of byte sequences: SHA-512
(spec/43_compression.md R260), HMAC-SHA512 (spec/44_hmac.md R300, R304, R305), and the compression in
native 64-bit arithmetic (spec/42_pair_arith.md R217). No step uses these; claims do. -/

namespace Sys2Proof.Machine

/-! ### SHA-512 and HMAC of byte sequences -/

/-- What `Pad` appends to a buffer of `n` bytes when the message has `bits` bits
(spec/41_streaming.md R152, R154): 0x80, `(111 - n) mod 128` zeros, the 16 length bytes. -/
def paddingBytes (n bits : Nat) : List Byte :=
  0x80#8 :: List.replicate ((239 - n) % 128) 0x00#8 ++ lengthBytes bits

/-- The padding of a message of `m` bytes (R152, R154). -/
def paddingFor (m : Nat) : List Byte := paddingBytes (m % 128) (8 * m)

/-- A 128-byte piece as 32 big-endian words (R75). -/
def blockOf (bs : List Byte) : Vector Word 32 :=
  Vector.ofFn fun w : Fin 32 =>
    bs.getD (4 * w.val) 0#8 ++ bs.getD (4 * w.val + 1) 0#8 ++ bs.getD (4 * w.val + 2) 0#8 ++ bs.getD (4 * w.val + 3) 0#8

/-- The first `n` 128-byte pieces of a byte sequence. -/
def pieces : Nat → List Byte → List (List Byte)
  | 0, _ => []
  | n + 1, bs => bs.take 128 :: pieces n (bs.drop 128)

/-- The blocks of a byte sequence, each compressed in turn (R260). -/
def compressAll (h : Vector Pair 8) (bs : List Byte) : Vector Pair 8 :=
  (pieces (bs.length / 128) bs).foldl (fun u b => compress u (blockOf b)) h

/-- The bytes a store holds, in order (R131). -/
def storeBytes (ws : Vector Word 32) : List Byte := positions.map (storeByte ws)

/-- The pending bytes: the first `BUFLEN` bytes of `BUF` (R22). -/
def pendingBytes (s : State) : List Byte := (storeBytes s.buf).take s.buflen.val

/-- SHA-512 of a message (R260). -/
def sha512 (m : List Byte) : Vector Pair 8 := compressAll iv (m ++ paddingFor m.length)

/-- The 64 bytes of SHA-512 of a message (R76). -/
def sha512Bytes (m : List Byte) : List Byte := digestBytes (sha512 m)

/-- K0 (R304): the key brought to 128 bytes. -/
def keyZero (k : List Byte) : List Byte :=
  if 128 < k.length then sha512Bytes k ++ List.replicate 64 0x00#8
  else k ++ List.replicate (128 - k.length) 0x00#8

/-- HMAC-SHA512 (R300). -/
def hmacSha512 (k m : List Byte) : Vector Pair 8 :=
  sha512 ((keyZero k).map (· ^^^ opadByte) ++ sha512Bytes ((keyZero k).map (· ^^^ ipadByte) ++ m))

/-! ### Streams of data commands -/

/-- The data of a command: the value `DIN` had at its acceptance, and `NB`. -/
abbrev Datum := Word × BitVec 3

/-- The bytes a stream of data carries (R102). -/
def bytesOfStream (ds : List Datum) : List Byte := ds.flatMap fun d => dataBytes d.1 d.2

/-- `Execute` of a data command on its latched operand (R354). -/
def execData (i : Instr) (w : Word) (s : State) : Host.Outcome State Fault Refusal :=
  exec i { s with pendDin := w }

/-- `Execute` of one data command for each datum, in order. -/
def execStream (cmd : BitVec 3 → Instr) : List Datum → State → Host.Outcome State Fault Refusal
  | [], s => .next s
  | d :: ds, s =>
    match execData (cmd d.2) d.1 s with
    | .next t => execStream cmd ds t
    | .fault r => .fault r
    | .refused r => .refused r

/-! ### The compression in native 64-bit arithmetic -/

/-- `ROTR` on a 64-bit value (R206). -/
def nativeRotr (x : BitVec 64) (n : Nat) : BitVec 64 := (x >>> n) ||| (x <<< (64 - n))

/-- `W[t]` by the recurrence of R253, for `t` below the fuel, from the native block words. -/
def nativeNext (w2 w7 w15 w16 : BitVec 64) : BitVec 64 :=
  (nativeRotr w2 19 ^^^ nativeRotr w2 61 ^^^ (w2 >>> 6)) + w7
    + (nativeRotr w15 1 ^^^ nativeRotr w15 8 ^^^ (w15 >>> 7)) + w16

/-- The native working variables. -/
structure NativeWork where
  a : BitVec 64
  b : BitVec 64
  c : BitVec 64
  d : BitVec 64
  e : BitVec 64
  f : BitVec 64
  g : BitVec 64
  h : BitVec 64
deriving DecidableEq, Repr

/-- One round in native arithmetic (R255, R217). -/
def nativeRound (v : NativeWork) (k w : BitVec 64) : NativeWork :=
  let t1 := v.h + (nativeRotr v.e 14 ^^^ nativeRotr v.e 18 ^^^ nativeRotr v.e 41)
    + ((v.e &&& v.f) ^^^ (~~~v.e &&& v.g)) + k + w
  let t2 := (nativeRotr v.a 28 ^^^ nativeRotr v.a 34 ^^^ nativeRotr v.a 39)
    + ((v.a &&& v.b) ^^^ (v.a &&& v.c) ^^^ (v.b &&& v.c))
  ⟨t1 + t2, v.a, v.b, v.c, v.d + t1, v.e, v.f, v.g⟩

/-- The native working variables of pairs. -/
def nativeOf (v : Work) : NativeWork :=
  ⟨pairVal v.a, pairVal v.b, pairVal v.c, pairVal v.d, pairVal v.e, pairVal v.f, pairVal v.g, pairVal v.h⟩

end Sys2Proof.Machine
end

