-- ==== Sys2Proof/Machine/System.lean ====
section
/-! DEFINITION. A system of independent engines, each with its own host (spec/20_memory.md R82,
spec/60_exceptions.md R364). -/

namespace Sys2Proof.Machine

/-- A system of `N_INSTANCES = n + 1` engines: at least one (spec/00_scope.md R5). -/
abbrev System (n : Nat) := Vector State (n + 1)

/-- What can happen in a system. -/
inductive SystemEvent (n : Nat) where
  /-- engine `k`, with its host and its reset input, makes a step; it may reset alone (R364) -/
  | move (k : Fin (n + 1))
  /-- the platform's reset of all engines (R364) -/
  | platformReset
deriving DecidableEq, Repr

/-- One step of a system. Which engine moves is the event's choice, so every interleaving is covered. -/
def systemStep {n : Nat} (e : SystemEvent n) (sys : System n) : Host.Outcome (System n) Fault Refusal :=
  match e with
  | .move k =>
    match step sys[k] with
    | .next t => .next (sys.set k t)
    | .fault r => .fault r
    | .refused r => .refused r
  | .platformReset => .next (sys.map resetEngine)

/-- Every engine carries the number of its place, so that no two share a `REG_BASE` argument or the arguments
of a free value (log entry 13). -/
def numbered {n : Nat} (sys : System n) : Prop := ∀ k : Fin (n + 1), sys[k].engine = k.val

/-- The system after power-on: every engine at reset, numbered by its place. -/
def systemReset (n : Nat) : System n := Vector.ofFn fun k => { State.reset with engine := k.val }

/-- The engine that a host address selects: the platform tells engines apart by `REG_BASE` (R364). The spec
does not say that windows are disjoint; the first one is a DESIGN CHOICE (log entry 13). -/
def engineAt (n addr : Nat) : Option (Fin (n + 1)) :=
  (List.finRange (n + 1)).find? fun k => (windowOffset k.val addr).isSome

end Sys2Proof.Machine
end

