-- ==== Sys2Proof/Safety.lean ====
section
/-! DEFINITION. What claims call the end of a run, a valid result and a legal state
(spec/70_reset_and_hazards.md R406, R409; spec/10_state.md R43), and the frames they speak of. -/

namespace Sys2Proof.Machine

/-- The end of a run (R409): the host has executed `STOP` and no command is in flight. -/
def runEnded (s : State) : Bool := s.hostHalted && !s.busy

/-- A computation begins between two successive states of a run: an `INIT`, `KEY_BEGIN` or `HMAC_RESET` is
accepted (R406 point 3), or the engine is reset, after which data may follow without an `INIT` (DEDUCED, log
entry 21). -/
def computationBegins (before after : State) : Bool :=
  (!before.busy && after.busy &&
    match decode after.pendCmd with
    | .ok .init => true
    | .ok .keyBegin => true
    | .ok .hmacReset => true
    | .ok (.update _) => false
    | .ok (.final _) => false
    | .ok (.keyUpdate _) => false
    | .ok .hmacStart => false
    | .error _ => false) ||
  match before.resetInput with
  | [] => false
  | .quiet :: _ => false
  | .pulse :: _ => true
  | .pulseOnAccess :: _ => true

/-- No error has been recorded since the command that began the computation, and none stood then (R406
point 3). The states of the run are listed last first. -/
def cleanSinceBegin : List State → Bool
  | [] => true
  | [s] => !s.err
  | s :: before :: rest => !s.err && (computationBegins before s || cleanSinceBegin (before :: rest))

/-- After a run, whose states are listed last first, the digest window holds the result of the commands issued
(R406): no command in flight, finalized, and no error recorded now or at any time since the computation
began. An error that was raised and cleared on the way has lost its command's data. -/
def resultValid : List State → Bool
  | [] => false
  | s :: before => !s.busy && decide (s.phase = .finalized) && cleanSinceBegin (s :: before)

/-- The states of the next `k` steps from `s`, as far as they go on, in front of the earlier ones: last
first. -/
def runStates : Nat → State → List State → List State
  | 0, s, earlier => s :: earlier
  | k + 1, s, earlier =>
    match step s with
    | .next t => runStates k t (s :: earlier)
    | .fault _ => s :: earlier
    | .refused _ => s :: earlier

/-- The bytes of a store at and past a position are zero (R43 point 1, spec/40_word_buffer.md R133). -/
def zeroFrom (n : Nat) (ws : Vector Word 32) : Prop := ∀ i : Fin 128, n ≤ i.val → storeByte ws i = 0#8

/-- The command in flight, if any, is one that the acceptance checks of R352 pass in this state. -/
def pendingAccepted (s : State) : Prop := ∃ i, decode s.pendCmd = .ok i ∧ acceptError i s = none

/-- The invariants of R43 points 1 to 6, with what keeps them: the key store's part of R133, and that a
command in flight was accepted (R356). -/
structure Inv (s : State) : Prop where
  /-- R43 point 1 -/
  buf_clamped : zeroFrom s.buflen.val s.buf
  /-- R43 point 2 -/
  empty_iff : s.phase ≠ .finalized → (s.phase = .empty ↔ s.total = 0#64)
  /-- R43 point 3 -/
  finalized_drained : s.phase = .finalized → s.buflen.val = 0
  /-- R43 point 4 -/
  key_mode : s.mode = .key → s.phase ≠ .finalized ∧ s.keyValid = false
  /-- R43 point 5 -/
  hmac_mode : s.mode = .hmac → s.keyValid = true
  /-- R43 point 6 -/
  error_record : s.errcode = 0#8 ↔ s.err = false
  /-- spec/40_word_buffer.md R133, for `KEY` while a key is loaded -/
  key_clamped : s.mode = .key → zeroFrom s.total.toNat s.key
  /-- R356 -/
  pending_accepted : s.busy = true → pendingAccepted s

/-! ### Frames -/

/-- The datapath state of R42 is the same in both states. -/
structure SameDatapath (s t : State) : Prop where
  h : t.h = s.h
  buf : t.buf = s.buf
  buflen : t.buflen = s.buflen
  total : t.total = s.total
  phase : t.phase = s.phase
  mode : t.mode = s.mode
  key : t.key = s.key
  keyValid : t.keyValid = s.keyValid

/-- Everything that the execution of a command leaves alone is the same in both states: `DIN`, the error
record, the command in flight, the engine's number, the reset input and the host. -/
structure SameOutside (s t : State) : Prop where
  din : t.din = s.din
  err : t.err = s.err
  errcode : t.errcode = s.errcode
  busy : t.busy = s.busy
  pendCmd : t.pendCmd = s.pendCmd
  pendDin : t.pendDin = s.pendDin
  latency : t.latency = s.latency
  engine : t.engine = s.engine
  resetInput : t.resetInput = s.resetInput
  prog : t.prog = s.prog
  hostPc : t.hostPc = s.hostPc
  hostVars : t.hostVars = s.hostVars
  hostHalted : t.hostHalted = s.hostHalted

/-- The host, the reset input and the engine's number are the same in both states. -/
structure SameHost (s t : State) : Prop where
  engine : t.engine = s.engine
  resetInput : t.resetInput = s.resetInput
  prog : t.prog = s.prog
  hostPc : t.hostPc = s.hostPc
  hostVars : t.hostVars = s.hostVars
  hostHalted : t.hostHalted = s.hostHalted

/-- `t` is `s` after the bytes `d` were appended to the message (spec/41_streaming.md R151): counted,
buffered, and the block they complete compressed; at most one, for at most 128 bytes. -/
structure Appends (d : List Byte) (s t : State) : Prop where
  total : t.total = s.total + BitVec.ofNat 64 d.length
  phase : t.phase = if d = [] then s.phase else .accumulating
  buflen : t.buflen.val = (s.buflen.val + d.length) % 128
  clamped : zeroFrom t.buflen.val t.buf
  partly : s.buflen.val + d.length < 128 → t.h = s.h ∧ t.scratch = s.scratch ∧ pendingBytes t = pendingBytes s ++ d
  completed : 128 ≤ s.buflen.val + d.length →
    t.h = compress s.h (blockOf ((pendingBytes s ++ d).take 128)) ∧ pendingBytes t = (pendingBytes s ++ d).drop 128

/-- Every element of the engine to which R44 gives a reset value has it. -/
structure AtReset (s : State) : Prop where
  h : s.h = iv
  buf : s.buf = zeroStore
  buflen : s.buflen = 0
  total : s.total = 0#64
  phase : s.phase = .empty
  mode : s.mode = .hash
  key : s.key = zeroStore
  keyValid : s.keyValid = false
  din : s.din = 0#32
  err : s.err = false
  errcode : s.errcode = 0#8
  busy : s.busy = false

end Sys2Proof.Machine
end

