-- ==== Sys2Proof/Certificates/Slice0/Obligations.lean ====
section
/-! DEFINITION. The statements for the provers, from the numbered rules of spec/. -/

open Sys2Proof Sys2Proof.Machine

/-! ### Encoding -/

/-- Every well-formed command is what its word decodes to, and every word that decodes is the word of the
command it decodes to, which is well-formed (spec/30_encoding.md R100, R103, R107). -/
def Obligations.DecodeAndEncodeAgree : Prop :=
  (∀ i : Instr, i.wf = true → decode (encode i) = .ok i) ∧
  ∀ (w : Word) (i : Instr), decode w = .ok i → i.wf = true ∧ encode i = w

/-- `Decode` (spec/30_encoding.md R107) on every word, by the numbers in its three fields. -/
def Obligations.DecodeFollowsFieldTests : Prop :=
  ∀ w : Word,
    let op := w.toNat % 256
    let nb := w.toNat / 256 % 8
    let rsv := w.toNat / 2048
    decode w =
      if op ∉ [0x01, 0x02, 0x03, 0x10, 0x11, 0x12, 0x13] then .error .illegalOp
      else if rsv ≠ 0 then .error .reserved
      else if 4 < nb then .error .badNb
      else if op ∈ [0x01, 0x10, 0x12, 0x13] ∧ nb ≠ 0 then .error .badNb
      else if op = 0x01 then .ok .init
      else if op = 0x02 then .ok (.update (BitVec.ofNat 3 nb))
      else if op = 0x03 then .ok (.final (BitVec.ofNat 3 nb))
      else if op = 0x10 then .ok .keyBegin
      else if op = 0x11 then .ok (.keyUpdate (BitVec.ofNat 3 nb))
      else if op = 0x12 then .ok .hmacStart
      else .ok .hmacReset

/-- The words spec/30_encoding.md R103 writes out decode to their commands. -/
def Obligations.WrittenOutWordsDecode : Prop :=
  decode 0x00000001#32 = .ok .init ∧ decode 0x00000302#32 = .ok (.update 3) ∧
  decode 0x00000403#32 = .ok (.final 4) ∧ decode 0x00000010#32 = .ok .keyBegin ∧
  decode 0x00000411#32 = .ok (.keyUpdate 4) ∧ decode 0x00000012#32 = .ok .hmacStart ∧
  decode 0x00000013#32 = .ok .hmacReset

/-- `DataBytes` (spec/30_encoding.md R102): byte `j` of the first `NB`, and nothing of the rest. -/
def Obligations.DataBytesAreTheFirstBytes : Prop :=
  ∀ (w : Word) (nb : BitVec 3), nb.toNat ≤ 4 →
    (dataBytes w nb).length = nb.toNat ∧
    (∀ j, j < nb.toNat → (dataBytes w nb)[j]? = some (((w >>> (24 - j * 8)) &&& 0xFF#32).truncate 8)) ∧
    ∀ v : Word, v >>> (32 - 8 * nb.toNat) = w >>> (32 - 8 * nb.toNat) → dataBytes v nb = dataBytes w nb

/-- `PUSH` and `KPUSH` (spec/30_encoding.md R109) expand, chunk by chunk, to the write of `DIN`, the data command
with the chunk's length and a `WAIT`; the chunks have 1 to 4 bytes, and the words and lengths that are written
carry the pushed bytes in order. -/
def Obligations.PushedChunksCarryTheBytes : Prop :=
  ∀ (bs : List Byte) (l : Nat),
    let block := fun (cmd : BitVec 3 → Instr) (ck : List Byte × Nat) => [
      (⟨none, some (.write 0x00C 32 (packBytes ck.1))⟩ : HostLine),
      ⟨none, some (.write 0x008 32 (encode (cmd (BitVec.ofNat 3 ck.1.length))))⟩,
      ⟨some ck.2, some (.read 0x004 32 (some varStatus))⟩, ⟨none, some (.bnz varStatus 1#32 ck.2)⟩]
    expand (.push bs) l = ((chunks bs).zipIdx l).flatMap (block .update) ∧
    expand (.kpush bs) l = ((chunks bs).zipIdx l).flatMap (block .keyUpdate) ∧
    bytesOfStream ((chunks bs).map fun c => (packBytes c, BitVec.ofNat 3 c.length)) = bs ∧
    ∀ c ∈ chunks bs, 1 ≤ c.length ∧ c.length ≤ 4

/-! ### Pair arithmetic and compression -/

/-- `ADD64` is addition mod 2^64 on values, commutative and associative (spec/42_pair_arith.md R203). -/
def Obligations.PairAdditionIsModular : Prop :=
  ∀ a b c : Pair,
    pairVal (add64 a b) = pairVal a + pairVal b ∧ add64 a b = add64 b a ∧
    add64 (add64 a b) c = add64 a (add64 b c)

/-- Both carry tests of spec/42_pair_arith.md R202 hold exactly when the low sum reaches 2^32, and that
carry is what the high half of `ADD64` adds (R201). -/
def Obligations.CarryIsTheLowHalfOverflow : Prop :=
  ∀ a b : Pair,
    (((add64 a b).lo < b.lo) ↔ 2 ^ 32 ≤ a.lo.toNat + b.lo.toNat) ∧
    (((add64 a b).lo < a.lo) ↔ 2 ^ 32 ≤ a.lo.toNat + b.lo.toNat) ∧
    (add64 a b).hi = a.hi + b.hi + (if 2 ^ 32 ≤ a.lo.toNat + b.lo.toNat then 1#32 else 0#32)

/-- `SUM` is the sum of the values mod 2^64, in any order of the operands (spec/42_pair_arith.md R204). -/
def Obligations.PairSumIgnoresOrder : Prop :=
  ∀ (x : Pair) (xs : List Pair),
    pairVal (sum64 (x :: xs)) = (xs.map pairVal).foldl (· + ·) (pairVal x) ∧
    ∀ ys : List Pair, ys.Perm (x :: xs) → sum64 ys = sum64 (x :: xs)

/-- The half formulas of the rotations and the shift are the 64-bit operations, for every amount
(spec/42_pair_arith.md R206 to R210). -/
def Obligations.RotationsAndShiftAreNative : Prop :=
  ∀ x : Pair,
    (∀ n : Fin 64, pairVal (rotr64 x n) = (pairVal x >>> n.val) ||| (pairVal x <<< (64 - n.val))) ∧
    (∀ n : Fin 64, pairVal (rotl64 x n) = (pairVal x <<< n.val) ||| (pairVal x >>> (64 - n.val))) ∧
    ∀ n : Fin 32, pairVal (shr64 x n) = pairVal x >>> n.val

/-- The six SHA-512 functions on pairs are their 64-bit definitions (spec/42_pair_arith.md R211 to
R216). -/
def Obligations.MixingFunctionsAreNative : Prop :=
  ∀ x y z : Pair,
    let u := pairVal x
    let v := pairVal y
    let w := pairVal z
    pairVal (smallSigma0 x) = u.rotateRight 1 ^^^ u.rotateRight 8 ^^^ (u >>> 7) ∧
    pairVal (smallSigma1 x) = u.rotateRight 19 ^^^ u.rotateRight 61 ^^^ (u >>> 6) ∧
    pairVal (bigSigma0 x) = u.rotateRight 28 ^^^ u.rotateRight 34 ^^^ u.rotateRight 39 ∧
    pairVal (bigSigma1 x) = u.rotateRight 14 ^^^ u.rotateRight 18 ^^^ u.rotateRight 41 ∧
    pairVal (ch x y z) = (u &&& v) ^^^ (~~~u &&& w) ∧
    pairVal (maj x y z) = (u &&& v) ^^^ (u &&& w) ^^^ (v &&& w)

/-- The schedule: sixteen block words, then the recurrence (spec/43_compression.md R252, R253). -/
def Obligations.ScheduleFollowsRecurrence : Prop :=
  ∀ blk : Vector Word 32,
    (schedule blk).length = 80 ∧
    (∀ t : Fin 16, (schedule blk)[t.val]? = some ⟨blk[2 * t.val], blk[2 * t.val + 1]⟩) ∧
    ∀ t : Fin 64, ∃ w2 w7 w15 w16 : Pair,
      (schedule blk)[t.val + 14]? = some w2 ∧ (schedule blk)[t.val + 9]? = some w7 ∧
      (schedule blk)[t.val + 1]? = some w15 ∧ (schedule blk)[t.val]? = some w16 ∧
      (schedule blk)[t.val + 16]? = some (sum64 [smallSigma1 w2, w7, smallSigma0 w15, w16])

/-- `Compress` on pairs is the compression in native 64-bit arithmetic (spec/42_pair_arith.md R217): the
schedule's recurrence, the 80 rounds, the final addition. -/
def Obligations.CompressionIsNative : Prop :=
  ∀ (hin : Vector Pair 8) (blk : Vector Word 32),
    let ws := (schedule blk).map pairVal
    let v := ((roundConstants.map pairVal).zip ws).foldl (fun u kw => nativeRound u kw.1 kw.2)
      (nativeOf (workInit hin))
    let hout := compress hin blk
    (∀ t : Fin 64,
      ws[t.val + 16]? =
        some (nativeNext (ws.getD (t.val + 14) 0) (ws.getD (t.val + 9) 0) (ws.getD (t.val + 1) 0) (ws.getD t.val 0))) ∧
    roundConstants.length = 80 ∧ ws.length = 80 ∧
    hout.toList.map pairVal =
      [pairVal hin[0] + v.a, pairVal hin[1] + v.b, pairVal hin[2] + v.c, pairVal hin[3] + v.d,
       pairVal hin[4] + v.e, pairVal hin[5] + v.f, pairVal hin[6] + v.g, pairVal hin[7] + v.h]

/-- `IV[i] = floor(sqrt(p_i) * 2^64) mod 2^64` for the first eight primes (spec/43_compression.md R250). -/
def Obligations.InitialDigestIsSquareRoots : Prop :=
  ∀ i : Fin 8, ∃ k : Nat,
    let n := k * 2 ^ 64 + (pairVal iv[i]).toNat
    let p := [2, 3, 5, 7, 11, 13, 17, 19].getD i.val 0
    n ^ 2 ≤ p * 2 ^ 128 ∧ p * 2 ^ 128 < (n + 1) ^ 2

/-- `K[t] = floor(cbrt(p_t) * 2^64) mod 2^64` for the first eighty primes (spec/43_compression.md R251). -/
def Obligations.RoundConstantsAreCubeRoots : Prop :=
  let primes := (List.range 410).filter fun n => decide (2 ≤ n) && (List.range 21).all fun d => d < 2 || d == n || n % d != 0
  primes.length = 80 ∧ roundConstants.length = 80 ∧
  ∀ t : Fin 80, ∃ k : Nat,
    let n := k * 2 ^ 64 + (pairVal (roundConstants.getD t.val default)).toNat
    let p := primes.getD t.val 0
    n ^ 3 ≤ p * 2 ^ 192 ∧ p * 2 ^ 192 < (n + 1) ^ 3

/-! ### The input buffer and the streaming procedures -/

/-- `Append` (spec/40_word_buffer.md R132) puts the significant bytes of one buffer after those of a
clamped other, and keeps it clamped. -/
def Obligations.AppendDenotesConcatenation : Prop :=
  ∀ s o : WordBuf, bufCovered s → bufClamped s →
    bufBytes (appendBuf s o) = bufBytes s ++ bufBytes o ∧
    (appendBuf s o).sigBytes = s.sigBytes + o.sigBytes ∧ bufCovered (appendBuf s o) ∧ bufClamped (appendBuf s o)

/-- `Append` is associative on denoted byte sequences (spec/40_word_buffer.md R137). -/
def Obligations.AppendIsAssociative : Prop :=
  ∀ a b c : WordBuf, bufCovered a → bufClamped a → bufCovered b → bufClamped b →
    bufBytes (appendBuf (appendBuf a b) c) = bufBytes a ++ bufBytes b ++ bufBytes c ∧
    bufBytes (appendBuf a (appendBuf b c)) = bufBytes a ++ bufBytes b ++ bufBytes c

/-- `AbsorbByte` (spec/40_word_buffer.md R134) on a clamped buffer: below 127 bytes the byte is buffered;
the 128th byte compresses the block and empties the buffer. `TOTAL` and the rest are not changed. -/
def Obligations.AbsorbByteBuffersOrCompresses : Prop :=
  ∀ (b : Byte) (s : State), zeroFrom s.buflen.val s.buf →
    let t := absorbByte b s
    (if s.buflen.val < 127 then
      t.buflen.val = s.buflen.val + 1 ∧ t.h = s.h ∧ pendingBytes t = pendingBytes s ++ [b] ∧ t.scratch = s.scratch
    else t.buflen = 0 ∧ t.h = compress s.h (blockOf (pendingBytes s ++ [b])) ∧ t.buf = zeroStore) ∧
    zeroFrom t.buflen.val t.buf ∧ t.total = s.total ∧ t.phase = s.phase ∧ t.mode = s.mode ∧ t.key = s.key ∧
    t.keyValid = s.keyValid ∧ SameOutside s t

/-- Streaming equivalence (spec/40_word_buffer.md R136): the split of the data between appends, and between
`UPDATE` or `KEY_UPDATE` commands, cannot be seen. -/
def Obligations.SplitOfDataIsInvisible : Prop :=
  (∀ (p q : List Byte) (s : State), appendData q (appendData p s) = appendData (p ++ q) s) ∧
  (∀ (ds es : List Datum) (s : State), bytesOfStream ds = bytesOfStream es →
    ∃ t u, execStream .update ds s = .next t ∧ execStream .update es s = .next u ∧ SameDatapath t u) ∧
  ∀ (ds es : List Datum) (s : State), bytesOfStream ds = bytesOfStream es →
    s.total.toNat + (bytesOfStream ds).length < 2 ^ 64 →
    ∃ t u, execStream .keyUpdate ds s = .next t ∧ execStream .keyUpdate es s = .next u ∧ SameDatapath t u

/-- `Pad` (spec/41_streaming.md R152, R154): it appends 0x80, `(111 - n) mod 128` zeros and the length,
ends with an empty buffer, and compresses one block up to 111 buffered bytes and two from 112. The blocks
are counted by the model's free draws, one for each compression (log entry 2). -/
def Obligations.PadEndsOnABlockBoundary : Prop :=
  ∀ s : State,
    pad s = absorbBytes (paddingBytes s.buflen.val (8 * s.total.toNat)) s ∧
    (pad s).buflen = 0 ∧ (pad s).total = s.total ∧
    (pad s).draws = s.draws + if s.buflen.val ≤ 111 then 1 else 2

/-- The length field (spec/41_streaming.md R153): 16 bytes, most significant first, of value `8 * TOTAL`;
its halves are `TOTAL >>> 61` and `(TOTAL * 8) mod 2^64`. -/
def Obligations.LengthFieldIsEightTimesTotal : Prop :=
  ∀ total : BitVec 64,
    let value := fun bs : List Byte => bs.foldl (fun a b => a * 256 + b.toNat) 0
    let field := lengthBytes (8 * total.toNat)
    field.length = 16 ∧ value field = 8 * total.toNat ∧
    value (field.take 8) = total.toNat >>> 61 ∧ value (field.drop 8) = (total.toNat * 8) % 2 ^ 64

/-! ### The commands -/

/-- `INIT` (spec/41_streaming.md R155): its word, that no state refuses it, and its effect; `KEY` and
`KEY_VALID` stay, and so does everything else. -/
def Obligations.InitStartsANewHash : Prop :=
  encode .init = 0x00000001#32 ∧
  ∀ s : State, acceptError .init s = none ∧
    exec .init s = .next { s with h := iv, buf := zeroStore, buflen := 0, total := 0#64, phase := .empty, mode := .hash }

/-- `UPDATE` (spec/41_streaming.md R156) completes and appends its bytes; with `NB = 0` it changes nothing
at all. Its frame: `MODE`, `KEY`, `KEY_VALID` and everything outside the datapath. -/
def Obligations.UpdateAppendsItsBytes : Prop :=
  ∀ (nb : BitVec 3) (s : State), zeroFrom s.buflen.val s.buf →
    ∃ t, exec (.update nb) s = .next t ∧ Appends (dataBytes s.pendDin nb) s t ∧ (nb = 0#3 → t = s) ∧
      t.mode = s.mode ∧ t.key = s.key ∧ t.keyValid = s.keyValid ∧ SameOutside s t

/-- `FINAL` in `MODE = HASH` (spec/41_streaming.md R157) completes: the pending bytes, the data and the
padding are compressed into `H`, the buffer is empty, `TOTAL` keeps the message length. -/
def Obligations.FinalFinishesTheHash : Prop :=
  ∀ (nb : BitVec 3) (s : State), s.mode = .hash → zeroFrom s.buflen.val s.buf →
    let d := dataBytes s.pendDin nb
    let tail := pendingBytes s ++ d
    let total := s.total + BitVec.ofNat 64 d.length
    ∃ t, exec (.final nb) s = .next t ∧
      t.h = compressAll s.h (tail ++ paddingBytes (tail.length % 128) (8 * total.toNat)) ∧
      t.buf = zeroStore ∧ t.buflen = 0 ∧ t.total = total ∧ t.phase = .finalized ∧
      t.mode = s.mode ∧ t.key = s.key ∧ t.keyValid = s.keyValid ∧ SameOutside s t

/-- `FINAL` in `MODE = HMAC` (spec/44_hmac.md R307) completes: the inner hash is finished, and `H` becomes
the hash of the outer key and the inner digest. -/
def Obligations.FinalFinishesTheMac : Prop :=
  ∀ (nb : BitVec 3) (s : State), s.mode = .hmac → zeroFrom s.buflen.val s.buf →
    let d := dataBytes s.pendDin nb
    let tail := pendingBytes s ++ d
    let total := s.total + BitVec.ofNat 64 d.length
    let inner := compressAll s.h (tail ++ paddingBytes (tail.length % 128) (8 * total.toNat))
    ∃ t, exec (.final nb) s = .next t ∧
      t.h = compressAll iv ((storeBytes s.key).map (· ^^^ 0x5C#8) ++ digestBytes inner ++ paddingFor 192) ∧
      t.buf = zeroStore ∧ t.buflen = 0 ∧ t.total = 192#64 ∧ t.phase = .finalized ∧
      t.mode = s.mode ∧ t.key = s.key ∧ t.keyValid = s.keyValid ∧ SameOutside s t

/-- `KEY_BEGIN` (spec/44_hmac.md R301): its word, that no state refuses it, and its effect on the whole
state. -/
def Obligations.KeyBeginStartsAnEmptyKey : Prop :=
  encode .keyBegin = 0x00000010#32 ∧
  ∀ s : State, acceptError .keyBegin s = none ∧
    exec .keyBegin s =
      .next { s with h := iv, buf := zeroStore, buflen := 0, total := 0#64, phase := .empty,
                     key := zeroStore, keyValid := false, mode := .key }

/-- `KEY_UPDATE` (spec/44_hmac.md R302) completes: byte `j` of the data goes to key position `TOTAL + j`
where that is below 128 and every other key byte stays; the data is appended to the hashed stream. -/
def Obligations.KeyUpdateStoresAndHashes : Prop :=
  ∀ (nb : BitVec 3) (s : State), zeroFrom s.buflen.val s.buf → zeroFrom s.total.toNat s.key →
    let d := dataBytes s.pendDin nb
    ∃ t, exec (.keyUpdate nb) s = .next t ∧ Appends d s t ∧
      (∀ i : Fin 128, storeByte t.key i =
        if s.total.toNat ≤ i.val ∧ i.val < s.total.toNat + d.length then d.getD (i.val - s.total.toNat) 0#8
        else storeByte s.key i) ∧
      t.mode = s.mode ∧ t.keyValid = s.keyValid ∧ SameOutside s t

/-- `HMAC_START` (spec/44_hmac.md R303) completes: a key of more than 128 bytes is replaced by its digest
and zeros, a shorter one is kept; the inner padded key is absorbed. -/
def Obligations.HmacStartAbsorbsTheInnerKey : Prop :=
  ∀ s : State, zeroFrom s.buflen.val s.buf →
    ∃ t, exec .hmacStart s = .next t ∧
      (if s.total.toNat ≤ 128 then t.key = s.key
      else storeBytes t.key =
        digestBytes (compressAll s.h (pendingBytes s ++ paddingBytes s.buflen.val (8 * s.total.toNat)))
          ++ List.replicate 64 0#8) ∧
      t.h = compress iv (blockOf ((storeBytes t.key).map (· ^^^ 0x36#8))) ∧
      t.buf = zeroStore ∧ t.buflen = 0 ∧ t.total = 128#64 ∧ t.phase = .accumulating ∧ t.mode = .hmac ∧
      t.keyValid = true ∧ SameOutside s t

/-- `HMAC_RESET` (spec/44_hmac.md R306) completes in every state, and restarts the inner hash under the key
it finds. -/
def Obligations.HmacResetRestartsTheMac : Prop :=
  ∀ s : State, ∃ t, exec .hmacReset s = .next t ∧
    t.h = compress iv (blockOf ((storeBytes s.key).map (· ^^^ 0x36#8))) ∧
    t.buf = zeroStore ∧ t.buflen = 0 ∧ t.total = 128#64 ∧ t.phase = .accumulating ∧ t.mode = .hmac ∧
    t.key = s.key ∧ t.keyValid = s.keyValid ∧ SameOutside s t

/-- The datapath after `HMAC_RESET` is the datapath right after the `HMAC_START` that formed the key
(spec/44_hmac.md R306). -/
def Obligations.HmacResetEqualsHmacStart : Prop :=
  ∀ s t u : State, exec .hmacStart s = .next t → u.key = t.key → u.keyValid = true →
    ∃ v, exec .hmacReset u = .next v ∧ SameDatapath t v

/-- How many blocks each command compresses (spec/41_streaming.md R161, spec/44_hmac.md R308), counted by
the model's free draws, one for each compression (log entry 2). -/
def Obligations.CommandsCompressTheirBlocks : Prop :=
  ∀ (nb : BitVec 3) (s : State),
    let len := s.buflen.val + (dataBytes s.pendDin nb).length
    let u := if 128 ≤ len then 1 else 0
    let p := if len % 128 ≤ 111 then 1 else 2
    let q := if s.buflen.val ≤ 111 then 1 else 2
    let blocks := fun (i : Instr) (n : Nat) => ∃ t, exec i s = .next t ∧ t.draws = s.draws + n
    blocks .init 0 ∧ blocks .keyBegin 0 ∧ blocks (.update nb) u ∧ blocks (.keyUpdate nb) u ∧
    (s.mode = .hash → blocks (.final nb) (u + p)) ∧ (s.mode = .hmac → blocks (.final nb) (u + p + 2)) ∧
    blocks .hmacStart (if s.total.toNat ≤ 128 then 1 else q + 1) ∧ blocks .hmacReset 1

/-! ### What the engine computes -/

/-- `INIT`, any stream of `UPDATE`s and a `FINAL` leave SHA-512 of all their bytes in `H`
(spec/43_compression.md R260, spec/41_streaming.md R158). -/
def Obligations.StreamedHashIsSha512 : Prop :=
  ∀ (ds : List Datum) (w : Word) (nb : BitVec 3) (s : State),
    let m := bytesOfStream ds ++ dataBytes w nb
    m.length < 2 ^ 64 →
    ∃ a u t, exec .init s = .next a ∧ execStream .update ds a = .next u ∧ execData (.final nb) w u = .next t ∧
      t.h = sha512 m ∧ t.phase = .finalized ∧ t.mode = .hash ∧ t.buflen = 0 ∧ t.total.toNat = m.length

/-- `KEY_BEGIN`, any stream of `KEY_UPDATE`s and `HMAC_START` leave K0 in `KEY` (spec/44_hmac.md R304). -/
def Obligations.StreamedKeyBecomesKeyZero : Prop :=
  ∀ (ks : List Datum) (s : State), (bytesOfStream ks).length < 2 ^ 64 →
    ∃ a u t, exec .keyBegin s = .next a ∧ execStream .keyUpdate ks a = .next u ∧ exec .hmacStart u = .next t ∧
      storeBytes t.key = keyZero (bytesOfStream ks) ∧ t.keyValid = true

/-- The whole HMAC sequence leaves HMAC-SHA512 of the message under the key in `H`, however key and message
are split (spec/44_hmac.md R309). -/
def Obligations.StreamedMacIsHmacSha512 : Prop :=
  ∀ (ks ms : List Datum) (w : Word) (nb : BitVec 3) (s : State),
    let m := bytesOfStream ms ++ dataBytes w nb
    (bytesOfStream ks).length < 2 ^ 64 → 128 + m.length < 2 ^ 64 →
    ∃ a k b u t, exec .keyBegin s = .next a ∧ execStream .keyUpdate ks a = .next k ∧ exec .hmacStart k = .next b ∧
      execStream .update ms b = .next u ∧ execData (.final nb) w u = .next t ∧
      t.h = hmacSha512 (bytesOfStream ks) m ∧ t.phase = .finalized ∧ t.mode = .hmac ∧ t.total = 192#64

/-! ### Acceptance and the error record -/

/-- `OnCmdWrite` (spec/60_exceptions.md R352), every check in its order, by the numbers in the word's
fields; `latency` and `draws` are the model's, for `CMD_LATENCY` (log entry 3). -/
def Obligations.AcceptanceFollowsPriority : Prop :=
  ∀ (w : Word) (s : State),
    let op := w.toNat % 256
    let nb := w.toNat / 256 % 8
    let rsv := w.toNat / 2048
    onCmdWrite w s =
      if s.busy = true then raiseError .busy s
      else if op ∉ [0x01, 0x02, 0x03, 0x10, 0x11, 0x12, 0x13] then raiseError .illegalOp s
      else if rsv ≠ 0 then raiseError .reserved s
      else if 4 < nb ∨ (op ∈ [0x01, 0x10, 0x12, 0x13] ∧ nb ≠ 0) then raiseError .badNb s
      else if op ∈ [0x02, 0x03] ∧ s.mode = .key then raiseError .mode s
      else if op ∈ [0x11, 0x12] ∧ s.mode ≠ .key then raiseError .mode s
      else if op = 0x13 ∧ s.keyValid = false then raiseError .noKey s
      else if op ∈ [0x02, 0x03] ∧ s.phase = .finalized then raiseError .finalized s
      else if op ∈ [0x02, 0x03, 0x11] ∧ 2 ^ 64 - 1 < s.total.toNat + nb then raiseError .lenOvf s
      else
        { s with
          pendCmd := w
          pendDin := s.din
          busy := true
          latency := Config.cmdLatency s.engine s.draws
          draws := s.draws + 1 }

/-- `raise Error` (spec/60_exceptions.md R353) keeps the first code, sets `ERR`, and changes nothing else;
the codes are those of R351. -/
def Obligations.FirstErrorIsKept : Prop :=
  (∀ (e : ErrCode) (s : State),
    raiseError e s = { s with err := true, errcode := if s.err = true then s.errcode else e.code }) ∧
  [ErrCode.illegalOp, .reserved, .badNb, .busy, .finalized, .mode, .noKey, .lenOvf].map ErrCode.code =
    [1#8, 2#8, 3#8, 4#8, 5#8, 6#8, 7#8, 8#8]

/-- A write of any value to `ERRCODE` clears the error record at once and changes nothing else; reset clears
it; no command clears or sets it. A step of the machine that does not keep a recorded error is one on which
reset is asserted, or the host's write to `ERRCODE` in a step in which the host moves
(spec/60_exceptions.md R355). -/
def Obligations.OnlyWriteOrResetClearsErrors : Prop :=
  (∀ (v : Word) (s : State), regWrite 0x010 v s = { s with err := false, errcode := 0#8 }) ∧
  (∀ s : State, (resetEngine s).err = false ∧ (resetEngine s).errcode = 0#8) ∧
  (∀ (i : Instr) (s : State), ∃ t, exec i s = .next t ∧ t.err = s.err ∧ t.errcode = s.errcode) ∧
  ∀ s t : State, s.err = true → step s = .next t →
    (t.err = true ∧ t.errcode = s.errcode) ∨
    (∃ x rest, s.resetInput = x :: rest ∧ x ≠ .quiet) ∨
    ((s.busy = true → s.latency ≠ 0) ∧ ∃ v, currentStmt s = some (.write 0x010 32 v))

/-- `UPDATE` and `FINAL` on a finalized state are rejected with `E_FINALIZED` and the state is untouched but
for the error record (spec/41_streaming.md R160). -/
def Obligations.FinalizedReuseIsRefused : Prop :=
  ∀ (nb : BitVec 3) (s : State), nb.toNat ≤ 4 → s.busy = false → s.mode ≠ .key → s.phase = .finalized →
    onCmdWrite (encode (.update nb)) s = raiseError .finalized s ∧
    onCmdWrite (encode (.final nb)) s = raiseError .finalized s

/-- An accepted data command never wraps `TOTAL`: it counts exactly its `NB` bytes (spec/10_state.md R23);
`FINAL` in `MODE = HASH` too. -/
def Obligations.AcceptedDataNeverWrapsTotal : Prop :=
  ∀ (nb : BitVec 3) (s : State), nb.toNat ≤ 4 →
    (acceptError (.update nb) s = none →
      ∃ t, exec (.update nb) s = .next t ∧ t.total.toNat = s.total.toNat + nb.toNat) ∧
    (acceptError (.keyUpdate nb) s = none →
      ∃ t, exec (.keyUpdate nb) s = .next t ∧ t.total.toNat = s.total.toNat + nb.toNat) ∧
    (acceptError (.final nb) s = none → s.mode = .hash →
      ∃ t, exec (.final nb) s = .next t ∧ t.total.toNat = s.total.toNat + nb.toNat)

/-- The transitions of `MODE` and `PHASE` over all accepted commands (spec/41_streaming.md R159), with the
modes and phases they are accepted in; a `CMD` write itself changes neither field. -/
def Obligations.ModePhaseTransitions : Prop :=
  (∀ (i : Instr) (s : State), Inv s → acceptError i s = none →
    ∃ t, exec i s = .next t ∧
      match i with
      | .init => t.mode = .hash ∧ t.phase = .empty
      | .update nb =>
        s.mode ≠ .key ∧ s.phase ≠ .finalized ∧ t.mode = s.mode ∧
        t.phase = if nb = 0#3 then s.phase else .accumulating
      | .final _ => s.mode ≠ .key ∧ s.phase ≠ .finalized ∧ t.mode = s.mode ∧ t.phase = .finalized
      | .keyBegin => t.mode = .key ∧ t.phase = .empty
      | .keyUpdate nb =>
        s.mode = .key ∧ s.phase ≠ .finalized ∧ t.mode = .key ∧
        t.phase = if nb = 0#3 then s.phase else .accumulating
      | .hmacStart => s.mode = .key ∧ s.phase ≠ .finalized ∧ t.mode = .hmac ∧ t.phase = .accumulating
      | .hmacReset => s.mode ≠ .key ∧ t.mode = .hmac ∧ t.phase = .accumulating) ∧
  ∀ (w : Word) (s : State), (onCmdWrite w s).mode = s.mode ∧ (onCmdWrite w s).phase = s.phase

/-! ### The register window -/

/-- `STATUS` (spec/10_state.md R34), as a number: its reserved bits read 0, it is readable at all times, and a
write to it is ignored. -/
def Obligations.StatusShowsItsFields : Prop :=
  ∀ s : State,
    let phase := match s.phase with | .empty => 0 | .accumulating => 1 | .finalized => 2
    let mode := match s.mode with | .hash => 0 | .key => 1 | .hmac => 2
    (∀ v : Word, regWrite 0x004 v s = s) ∧ (regRead 0x004 s).2 = s ∧
    (regRead 0x004 s).1.toNat =
      s.busy.toNat + 2 * s.err.toNat + 4 * phase + 16 * mode + 64 * s.keyValid.toNat

/-- What every offset of the window reads while `BUSY = 0` (spec/10_state.md R33 to R41), with no side
effect. -/
def Obligations.IdleReadsFollowTheMap : Prop :=
  ∀ s : State, s.busy = false →
    regRead 0x000 s = (0x53483531#32, s) ∧ regRead 0x008 s = (0#32, s) ∧ regRead 0x00C s = (s.din, s) ∧
    regRead 0x010 s = (s.errcode.zeroExtend 32, s) ∧ regRead 0x014 s = (BitVec.ofNat 32 s.buflen.val, s) ∧
    regRead 0x018 s = (s.total.truncate 32, s) ∧ regRead 0x01C s = ((s.total >>> 32).truncate 32, s) ∧
    (∀ i : Fin 8, regRead (0x040 + 8 * i.val) s = (s.h[i].hi, s) ∧ regRead (0x044 + 8 * i.val) s = (s.h[i].lo, s)) ∧
    (∀ k : Fin 8, regRead (0x020 + 4 * k.val) s = (0#32, s)) ∧
    ∀ k : Fin 32, regRead (0x080 + 4 * k.val) s = (0#32, s)

/-- While `BUSY = 1`, `ID`, `STATUS`, `CMD`, `DIN` and `ERRCODE` read their defined values, the reserved offsets
read 0 (spec/10_state.md R41), and the result registers read a free draw (spec/20_memory.md R79; the count
of draws and the engine's number are the model's, log entries 4 and 13). -/
def Obligations.BusyReadsOfResultsAreFree : Prop :=
  ∀ s : State, s.busy = true →
    let free : Word × State := (Config.freeRead s.engine s.draws, { s with draws := s.draws + 1 })
    regRead 0x000 s = (0x53483531#32, s) ∧ regRead 0x004 s = (statusWord s, s) ∧
    regRead 0x008 s = (0#32, s) ∧ regRead 0x00C s = (s.din, s) ∧
    regRead 0x010 s = (s.errcode.zeroExtend 32, s) ∧
    (∀ off ∈ [0x014, 0x018, 0x01C], regRead off s = free) ∧
    (∀ n : Fin 16, regRead (0x040 + 4 * n.val) s = free) ∧
    (∀ k : Fin 8, regRead (0x020 + 4 * k.val) s = (0#32, s)) ∧
    ∀ k : Fin 32, regRead (0x080 + 4 * k.val) s = (0#32, s)

/-- Reads have no side effect, and a write acts only at `CMD`, `DIN` and `ERRCODE`
(spec/20_memory.md R74; the count of draws is the model's). -/
def Obligations.OnlyThreeOffsetsAct : Prop :=
  (∀ (off : Nat) (s : State), (regRead off s).2 = { s with draws := (regRead off s).2.draws }) ∧
  (∀ (off : Nat) (v : Word) (s : State), regWrite off v s =
    if off = 0x008 then onCmdWrite v s
    else if off = 0x00C then { s with din := v }
    else if off = 0x010 then { s with err := false, errcode := 0#8 }
    else s)

/-- Every admitted access is 32 bits wide and aligned: any other inside the window is refused, for reads and
writes (spec/20_memory.md R72). An access outside the window stops (log entry 11). -/
def Obligations.OnlyAlignedWordAccessesRun : Prop :=
  ∀ (off bits : Nat) (v : Word) (dst : Option Nat) (s : State),
    let r := regRead off s
    hostExec (.write off bits v) s =
      (if 0x100 ≤ off then .fault (.outsideWindow off)
      else if bits = 32 ∧ off % 4 = 0 then .next (hostNext (regWrite off v s))
      else .refused (.subwordAccess off bits)) ∧
    hostExec (.read off bits dst) s =
      (if 0x100 ≤ off then .fault (.outsideWindow off)
      else if bits = 32 ∧ off % 4 = 0 then .next (hostNext (assignRead dst r.1 r.2))
      else .refused (.subwordAccess off bits))

/-- No register shows the key store, the buffer's bytes, the command in flight or the scratch
(spec/10_state.md R26, R29, R30): two states that differ only in these read the same at every offset. -/
def Obligations.HiddenStateIsNeverRead : Prop :=
  ∀ (off : Nat) (s : State) (key buf : Vector Word 32) (cmd din : Word) (x : Scratch),
    (regRead off { s with key := key, buf := buf, pendCmd := cmd, pendDin := din, scratch := x }).1 = (regRead off s).1

/-- The scratch a command finds cannot be seen in anything it leaves (spec/10_state.md R30). -/
def Obligations.ScratchIsIrrelevant : Prop :=
  ∀ (i : Instr) (s : State) (x : Scratch), ∃ t u, exec i s = .next t ∧ exec i { s with scratch := x } = .next u ∧
    { u with scratch := t.scratch } = t

/-- The digest's bytes, in the order of spec/20_memory.md R76: as the host computes them from the window, and
as the bytes of the 64-bit values, most significant first. -/
def Obligations.DigestBytesFollowTheWindow : Prop :=
  ∀ h : Vector Pair 8,
    (digestBytes h).length = 64 ∧
    (∀ n : Fin 64, (digestBytes h)[n.val]? =
      some ((digestWord h ⟨n.val / 4, by omega⟩ >>> (24 - n.val % 4 * 8)).truncate 8)) ∧
    ∀ i k : Fin 8, (digestBytes h)[8 * i.val + k.val]? = some ((pairVal h[i] >>> (56 - 8 * k.val)).truncate 8)

/-! ### Host, reset and step -/

/-- No host step writes the datapath state or the scratch (spec/10_state.md R42). -/
def Obligations.HostNeverWritesDatapath : Prop :=
  ∀ s t : State, hostStep s = .next t → SameDatapath s t ∧ t.scratch = s.scratch

/-- A command in flight is not disturbed by any host step: it stays in flight, with its word, its operand and
the datapath, and every acceptance check answers as before (spec/60_exceptions.md R356). -/
def Obligations.CommandInFlightIsUndisturbed : Prop :=
  ∀ s t : State, s.busy = true → hostStep s = .next t →
    t.busy = true ∧ t.pendCmd = s.pendCmd ∧ t.pendDin = s.pendDin ∧ t.latency = s.latency ∧ SameDatapath s t ∧
    ∀ i : Instr, acceptError i t = acceptError i s

/-- Rewriting `DIN` after acceptance does not affect the command: `Execute` does the same with any `DIN`
(spec/70_reset_and_hazards.md R405). -/
def Obligations.ExecutionIgnoresLaterDin : Prop :=
  ∀ (i : Instr) (s : State) (v : Word), ∃ t, exec i s = .next t ∧ exec i { s with din := v } = .next { t with din := v }

/-- The host's control flow (spec/30_encoding.md R108): `BNZ` and `BZ` test the variable under the mask and go
on to the next line when the test fails, `STOP` stops, and a taken branch or a `GOTO` goes to the line of its
label; none touches a register. -/
def Obligations.HostControlFlowTouchesNoRegister : Prop :=
  ∀ (x l : Nat) (mask : Word) (s : State),
    let hit := getVar s.engine s.hostVars x &&& mask ≠ 0#32
    let next : State := { s with hostPc := s.hostPc + 1 }
    hostExec .stop s = .next { s with hostHalted := true } ∧
    (¬ hit → hostExec (.bnz x mask l) s = .next next) ∧
    (hit → hostExec (.bz x mask l) s = .next next) ∧
    ∀ k : Nat, labelIndex s.prog l = some k →
      let taken : State := { s with hostPc := k }
      (hit → hostExec (.bnz x mask l) s = .next taken) ∧ (¬ hit → hostExec (.bz x mask l) s = .next taken) ∧
      hostExec (.goto l) s = .next taken

/-- A step runs the command in flight: when `PEND_CMD` decodes to a command, no latency is left and reset is
not asserted, the step is `Execute` of that command and then `BUSY <- 0` (spec/60_exceptions.md R354). -/
def Obligations.StepRunsTheCommandInFlight : Prop :=
  ∀ (i : Instr) (s : State), s.busy = true → s.latency = 0 → decode s.pendCmd = .ok i →
    (s.resetInput = [] → ∃ t, exec i s = .next t ∧ step s = .next { t with busy := false }) ∧
    ∀ rest, s.resetInput = .quiet :: rest →
      ∃ t, exec i { s with resetInput := rest } = .next t ∧ step s = .next { t with busy := false }

/-- While reset is not asserted, the host moves when no command is in flight, and when one waits for its
latency, which the host's step uses up by one (spec/60_exceptions.md R354; `latency` is the model's field for
`CMD_LATENCY`, log entry 3). -/
def Obligations.HostMovesWhileCommandWaits : Prop :=
  ∀ s u : State,
    (s.resetInput = [] ∧ u = s) ∨ (∃ rest, s.resetInput = .quiet :: rest ∧ u = { s with resetInput := rest }) →
    (s.busy = false → step s = hostStep u) ∧
    (s.busy = true → s.latency ≠ 0 → step s = hostStep { u with latency := s.latency - 1 })

/-- An accepted command completes after its latency, whatever the host does meanwhile: if the run of
`latency + 1` steps from a state with a command in flight goes on, the command is no longer in flight; and
when the host has stopped, it does go on. Reset is not asserted meanwhile (spec/60_exceptions.md R354,
spec/70_reset_and_hazards.md R408, R409; `latency` is the model's, log entry 3). -/
def Obligations.AcceptedCommandCompletes : Prop :=
  ∀ s : State, Inv s → s.busy = true → (∀ x ∈ s.resetInput, x = .quiet) →
    (∀ t, Sys2Proof.core.run (s.latency + 1) s = .next t → t.busy = false) ∧
    (s.hostHalted = true → ∃ t, Sys2Proof.core.run (s.latency + 1) s = .next t ∧ runEnded t = true)

/-- Reset in any state, whatever the engine is doing, gives every element its reset value and abandons a
command in flight; an access that coincides with reset is lost: the engine's state is the reset state
(spec/70_reset_and_hazards.md R400, spec/60_exceptions.md R360). The model's choices: the host is not reset (log
entry 6); after a lost access the host goes on to its next line, a lost read assigns a free value, and an
access that the window would not admit is lost like any other (log entry 5). -/
def Obligations.ResetWinsInEveryState : Prop :=
  ∀ (s : State) (rest : List ResetSample),
    let after : State := { s with resetInput := rest }
    (s.resetInput = .pulse :: rest → ∃ t, step s = .next t ∧ AtReset t ∧ SameHost after t) ∧
    (s.resetInput = .pulseOnAccess :: rest →
      ∃ t, step s = .next t ∧ AtReset t ∧
        match currentStmt s with
        | some (.write _ _ _) => SameHost { after with hostPc := s.hostPc + 1 } t
        | some (.read _ _ none) => SameHost { after with hostPc := s.hostPc + 1 } t
        | some (.read _ _ (some x)) =>
          SameHost { after with hostPc := s.hostPc + 1
                                hostVars := setVar s.hostVars x (Config.freeRead s.engine s.draws) } t
        | _ => SameHost after t)

/-- The reset values (spec/10_state.md R44), and the register view they give. -/
def Obligations.ResetGivesTheListedValues : Prop :=
  AtReset State.reset ∧
  (∀ r ∈ [(0x000, 0x53483531#32), (0x004, 0x00000000#32), (0x00C, 0#32), (0x010, 0#32), (0x014, 0#32),
          (0x018, 0#32), (0x01C, 0#32)], (regRead r.1 State.reset).1 = r.2) ∧
  (List.finRange 16).map (fun n => (regRead (0x040 + 4 * n.val) State.reset).1) =
    [0x6a09e667#32, 0xf3bcc908#32, 0xbb67ae85#32, 0x84caa73b#32, 0x3c6ef372#32, 0xfe94f82b#32, 0xa54ff53a#32,
     0x5f1d36f1#32, 0x510e527f#32, 0xade682d1#32, 0x9b05688c#32, 0x2b3e6c1f#32, 0x1f83d9ab#32, 0xfb41bd6b#32,
     0x5be0cd19#32, 0x137e2179#32]

/-- Every step keeps the invariants of spec/10_state.md R43. -/
def Obligations.StepKeepsTheInvariants : Prop :=
  ∀ s t : State, Inv s → step s = .next t → Inv t

/-- Reset establishes the invariants of spec/10_state.md R43. -/
def Obligations.ResetMeetsTheInvariants : Prop := Inv State.reset

/-- Separate engines share no state (spec/20_memory.md R82, spec/60_exceptions.md R364): a step of one leaves every
other as it is, and the platform's reset puts every engine into its reset state and leaves the hosts alone
(the last is the model's choice, log entry 6). Every step keeps the engines' numbers, which a system has from
power-on (the numbers are the model's, log entry 13). -/
def Obligations.InstancesShareNothing : Prop :=
  ∀ n : Nat,
    (∀ (k : Fin (n + 1)) (sys sys' : System n), systemStep (.move k) sys = .next sys' →
      step sys[k] = .next sys'[k] ∧ ∀ j : Fin (n + 1), j ≠ k → sys'[j] = sys[j]) ∧
    (∀ sys : System n, ∃ sys', systemStep .platformReset sys = .next sys' ∧
      ∀ j : Fin (n + 1), AtReset sys'[j] ∧ SameHost sys[j] sys'[j]) ∧
    (∀ (e : SystemEvent n) (sys sys' : System n), numbered sys → systemStep e sys = .next sys' → numbered sys') ∧
    numbered (systemReset n)

/-- The disassembly of a command word is a line whose program writes that very word to `CMD`
(spec/30_encoding.md R108). -/
def Obligations.DisassemblyAssemblesBack : Prop :=
  ∀ (w : Word) (i : Instr), decode w = .ok i →
    assemble (disassemble w).toList = some [⟨none, some (.write 0x008 32 w)⟩]
end

