-- ==== Sys2Proof/Laws/Bytes.lean ====
section
/-! SUPPORT. Byte packing: reading a byte back from a word, and ORing one into a store
(spec/40_word_buffer.md R131, R132). -/

namespace Sys2Proof.Machine

theorem getLsbD_wordByte (w : Word) (i j : Nat) (hj : j < 8) :
    (wordByte w i).getLsbD j = w.getLsbD (24 - i % 4 * 8 + j) := by
  simp [wordByte, hj]

theorem getLsbD_byteAt (b : Byte) (p m : Nat) :
    (byteAt b p).getLsbD m = (decide (24 - p % 4 * 8 ≤ m) && b.getLsbD (m - (24 - p % 4 * 8))) := by
  have : p % 4 < 4 := Nat.mod_lt _ (by decide)
  by_cases h : 24 - p % 4 * 8 ≤ m
  · by_cases h2 : m - (24 - p % 4 * 8) < 8
    · have h3 : m < 32 := by omega
      have h4 : ¬ m < 24 - p % 4 * 8 := by omega
      have h5 : m - (24 - p % 4 * 8) < 32 := by omega
      simp only [byteAt, BitVec.getLsbD_shiftLeft, BitVec.getLsbD_setWidth, h, h3, h4, h5, BitVec.zeroExtend_eq_setWidth]
      simp
    · rw [BitVec.getLsbD_of_ge b _ (by omega)]
      simp only [byteAt, BitVec.getLsbD_shiftLeft, BitVec.getLsbD_setWidth, BitVec.zeroExtend_eq_setWidth]
      rw [BitVec.getLsbD_of_ge b _ (by omega)]; simp
  · have h4 : m < 24 - p % 4 * 8 := by omega
    simp only [byteAt, BitVec.getLsbD_shiftLeft, h4, h]
    simp

theorem wordByte_byteAt_same (b : Byte) (p i : Nat) (h : i % 4 = p % 4) : wordByte (byteAt b p) i = b := by
  apply BitVec.eq_of_getLsbD_eq
  intro j hj
  rw [getLsbD_wordByte _ _ _ hj, getLsbD_byteAt, h]
  simp

theorem wordByte_byteAt_ne (b : Byte) (p i : Nat) (h : i % 4 ≠ p % 4) : wordByte (byteAt b p) i = 0#8 := by
  apply BitVec.eq_of_getLsbD_eq
  intro j hj
  rw [getLsbD_wordByte _ _ _ hj, getLsbD_byteAt]
  have : p % 4 < 4 := Nat.mod_lt _ (by decide)
  have : i % 4 < 4 := Nat.mod_lt _ (by decide)
  by_cases h1 : 24 - p % 4 * 8 ≤ 24 - i % 4 * 8 + j
  · rw [BitVec.getLsbD_of_ge b _ (by omega)]; simp
  · simp [h1]

theorem wordByte_or (v w : Word) (i : Nat) : wordByte (v ||| w) i = wordByte v i ||| wordByte w i := by
  simp [wordByte, BitVec.ushiftRight_or_distrib]

@[simp] theorem wordByte_zero (i : Nat) : wordByte 0#32 i = 0#8 := by
  simp [wordByte]

/-- A byte ORed into a store shows at its own position only. -/
theorem storeByte_orByte (ws : Vector Word 32) (p i : Fin 128) (b : Byte) :
    storeByte (orByte ws p b) i = if i = p then storeByte ws i ||| b else storeByte ws i := by
  unfold storeByte orByte
  by_cases hw : i.val / 4 = p.val / 4
  · simp only [hw, Vector.getElem_set_self, wordByte_or]
    split
    · rename_i hip; subst hip; rw [wordByte_byteAt_same _ _ _ rfl]
    · rename_i hip
      rw [wordByte_byteAt_ne _ _ _ (by omega)]; simp
  · rw [Vector.getElem_set_ne _ _ (Ne.symm hw)]
    rw [if_neg (by rintro rfl; exact hw rfl)]

@[simp] theorem storeByte_zeroStore (i : Fin 128) : storeByte zeroStore i = 0#8 := by
  simp [storeByte, zeroStore]

/-- A data operand has as many bytes as `NB` says, at most four. -/
theorem dataBytes_length (w : Word) (nb : BitVec 3) : (dataBytes w nb).length = min nb.toNat 4 := by
  simp [dataBytes]

@[simp] theorem bytesOfWord_length (w : Word) : (bytesOfWord w).length = 4 := rfl

@[simp] theorem paddedBytes_length (ws : Vector Word 32) (p : Byte) : (paddedBytes ws p).length = 128 := by
  simp [paddedBytes, positions]

/-! The host's bus (spec/20_memory.md R77). -/

/-- The bytes of a register, as the host's bus shows them, are the bytes put there. -/
theorem busByte_busWord (f : Fin 4 → Byte) (k : Fin 4) : busByte (busWord f) k = f k := by
  obtain ⟨i, rfl⟩ := Config.busByteOrder.symm.surjective k
  simp only [busByte, busWord, Equiv.apply_symm_apply]
  fin_cases i <;> apply BitVec.eq_of_getLsbD_eq <;> intro j hj <;>
    simp [wordByte, hj] <;> grind

/-- Whatever the bus's byte order, the first byte of a loaded word goes to `DIN[31:24]`. -/
theorem orderForDin_busWord (f : Fin 4 → Byte) : orderForDin (busWord f) = f 0 ++ f 1 ++ f 2 ++ f 3 := by
  simp only [orderForDin, busByte_busWord]

end Sys2Proof.Machine
end

