-- ==== Sys2Proof/Laws/State.lean ====
section
/-! SUPPORT. For every named update of the state, the value of every field after it. True by `rfl`, and in
the simp set, so that no proof unfolds an update. -/

namespace Sys2Proof.Machine

@[simp] theorem raiseError_h (e : ErrCode) (s : State) : (raiseError e s).h = s.h := (rfl)
@[simp] theorem raiseError_buf (e : ErrCode) (s : State) : (raiseError e s).buf = s.buf := (rfl)
@[simp] theorem raiseError_buflen (e : ErrCode) (s : State) : (raiseError e s).buflen = s.buflen := (rfl)
@[simp] theorem raiseError_total (e : ErrCode) (s : State) : (raiseError e s).total = s.total := (rfl)
@[simp] theorem raiseError_phase (e : ErrCode) (s : State) : (raiseError e s).phase = s.phase := (rfl)
@[simp] theorem raiseError_mode (e : ErrCode) (s : State) : (raiseError e s).mode = s.mode := (rfl)
@[simp] theorem raiseError_key (e : ErrCode) (s : State) : (raiseError e s).key = s.key := (rfl)
@[simp] theorem raiseError_keyValid (e : ErrCode) (s : State) : (raiseError e s).keyValid = s.keyValid := (rfl)
@[simp] theorem raiseError_din (e : ErrCode) (s : State) : (raiseError e s).din = s.din := (rfl)
@[simp] theorem raiseError_err (e : ErrCode) (s : State) : (raiseError e s).err = true := (rfl)
@[simp] theorem raiseError_errcode (e : ErrCode) (s : State) : (raiseError e s).errcode = if s.err then s.errcode else e.code := (rfl)
@[simp] theorem raiseError_busy (e : ErrCode) (s : State) : (raiseError e s).busy = s.busy := (rfl)
@[simp] theorem raiseError_pendCmd (e : ErrCode) (s : State) : (raiseError e s).pendCmd = s.pendCmd := (rfl)
@[simp] theorem raiseError_pendDin (e : ErrCode) (s : State) : (raiseError e s).pendDin = s.pendDin := (rfl)
@[simp] theorem raiseError_scratch (e : ErrCode) (s : State) : (raiseError e s).scratch = s.scratch := (rfl)
@[simp] theorem raiseError_latency (e : ErrCode) (s : State) : (raiseError e s).latency = s.latency := (rfl)
@[simp] theorem raiseError_draws (e : ErrCode) (s : State) : (raiseError e s).draws = s.draws := (rfl)
@[simp] theorem raiseError_engine (e : ErrCode) (s : State) : (raiseError e s).engine = s.engine := (rfl)
@[simp] theorem raiseError_resetInput (e : ErrCode) (s : State) : (raiseError e s).resetInput = s.resetInput := (rfl)
@[simp] theorem raiseError_prog (e : ErrCode) (s : State) : (raiseError e s).prog = s.prog := (rfl)
@[simp] theorem raiseError_hostPc (e : ErrCode) (s : State) : (raiseError e s).hostPc = s.hostPc := (rfl)
@[simp] theorem raiseError_hostVars (e : ErrCode) (s : State) : (raiseError e s).hostVars = s.hostVars := (rfl)
@[simp] theorem raiseError_hostHalted (e : ErrCode) (s : State) : (raiseError e s).hostHalted = s.hostHalted := (rfl)

@[simp] theorem clearError_h (s : State) : (clearError s).h = s.h := (rfl)
@[simp] theorem clearError_buf (s : State) : (clearError s).buf = s.buf := (rfl)
@[simp] theorem clearError_buflen (s : State) : (clearError s).buflen = s.buflen := (rfl)
@[simp] theorem clearError_total (s : State) : (clearError s).total = s.total := (rfl)
@[simp] theorem clearError_phase (s : State) : (clearError s).phase = s.phase := (rfl)
@[simp] theorem clearError_mode (s : State) : (clearError s).mode = s.mode := (rfl)
@[simp] theorem clearError_key (s : State) : (clearError s).key = s.key := (rfl)
@[simp] theorem clearError_keyValid (s : State) : (clearError s).keyValid = s.keyValid := (rfl)
@[simp] theorem clearError_din (s : State) : (clearError s).din = s.din := (rfl)
@[simp] theorem clearError_err (s : State) : (clearError s).err = false := (rfl)
@[simp] theorem clearError_errcode (s : State) : (clearError s).errcode = 0#8 := (rfl)
@[simp] theorem clearError_busy (s : State) : (clearError s).busy = s.busy := (rfl)
@[simp] theorem clearError_pendCmd (s : State) : (clearError s).pendCmd = s.pendCmd := (rfl)
@[simp] theorem clearError_pendDin (s : State) : (clearError s).pendDin = s.pendDin := (rfl)
@[simp] theorem clearError_scratch (s : State) : (clearError s).scratch = s.scratch := (rfl)
@[simp] theorem clearError_latency (s : State) : (clearError s).latency = s.latency := (rfl)
@[simp] theorem clearError_draws (s : State) : (clearError s).draws = s.draws := (rfl)
@[simp] theorem clearError_engine (s : State) : (clearError s).engine = s.engine := (rfl)
@[simp] theorem clearError_resetInput (s : State) : (clearError s).resetInput = s.resetInput := (rfl)
@[simp] theorem clearError_prog (s : State) : (clearError s).prog = s.prog := (rfl)
@[simp] theorem clearError_hostPc (s : State) : (clearError s).hostPc = s.hostPc := (rfl)
@[simp] theorem clearError_hostVars (s : State) : (clearError s).hostVars = s.hostVars := (rfl)
@[simp] theorem clearError_hostHalted (s : State) : (clearError s).hostHalted = s.hostHalted := (rfl)

@[simp] theorem latchCommand_h (w : Word) (s : State) : (latchCommand w s).h = s.h := (rfl)
@[simp] theorem latchCommand_buf (w : Word) (s : State) : (latchCommand w s).buf = s.buf := (rfl)
@[simp] theorem latchCommand_buflen (w : Word) (s : State) : (latchCommand w s).buflen = s.buflen := (rfl)
@[simp] theorem latchCommand_total (w : Word) (s : State) : (latchCommand w s).total = s.total := (rfl)
@[simp] theorem latchCommand_phase (w : Word) (s : State) : (latchCommand w s).phase = s.phase := (rfl)
@[simp] theorem latchCommand_mode (w : Word) (s : State) : (latchCommand w s).mode = s.mode := (rfl)
@[simp] theorem latchCommand_key (w : Word) (s : State) : (latchCommand w s).key = s.key := (rfl)
@[simp] theorem latchCommand_keyValid (w : Word) (s : State) : (latchCommand w s).keyValid = s.keyValid := (rfl)
@[simp] theorem latchCommand_din (w : Word) (s : State) : (latchCommand w s).din = s.din := (rfl)
@[simp] theorem latchCommand_err (w : Word) (s : State) : (latchCommand w s).err = s.err := (rfl)
@[simp] theorem latchCommand_errcode (w : Word) (s : State) : (latchCommand w s).errcode = s.errcode := (rfl)
@[simp] theorem latchCommand_busy (w : Word) (s : State) : (latchCommand w s).busy = true := (rfl)
@[simp] theorem latchCommand_pendCmd (w : Word) (s : State) : (latchCommand w s).pendCmd = w := (rfl)
@[simp] theorem latchCommand_pendDin (w : Word) (s : State) : (latchCommand w s).pendDin = s.din := (rfl)
@[simp] theorem latchCommand_scratch (w : Word) (s : State) : (latchCommand w s).scratch = s.scratch := (rfl)
@[simp] theorem latchCommand_latency (w : Word) (s : State) : (latchCommand w s).latency = Config.cmdLatency s.engine s.draws := (rfl)
@[simp] theorem latchCommand_draws (w : Word) (s : State) : (latchCommand w s).draws = s.draws + 1 := (rfl)
@[simp] theorem latchCommand_engine (w : Word) (s : State) : (latchCommand w s).engine = s.engine := (rfl)
@[simp] theorem latchCommand_resetInput (w : Word) (s : State) : (latchCommand w s).resetInput = s.resetInput := (rfl)
@[simp] theorem latchCommand_prog (w : Word) (s : State) : (latchCommand w s).prog = s.prog := (rfl)
@[simp] theorem latchCommand_hostPc (w : Word) (s : State) : (latchCommand w s).hostPc = s.hostPc := (rfl)
@[simp] theorem latchCommand_hostVars (w : Word) (s : State) : (latchCommand w s).hostVars = s.hostVars := (rfl)
@[simp] theorem latchCommand_hostHalted (w : Word) (s : State) : (latchCommand w s).hostHalted = s.hostHalted := (rfl)

@[simp] theorem finishCommand_h (s : State) : (finishCommand s).h = s.h := (rfl)
@[simp] theorem finishCommand_buf (s : State) : (finishCommand s).buf = s.buf := (rfl)
@[simp] theorem finishCommand_buflen (s : State) : (finishCommand s).buflen = s.buflen := (rfl)
@[simp] theorem finishCommand_total (s : State) : (finishCommand s).total = s.total := (rfl)
@[simp] theorem finishCommand_phase (s : State) : (finishCommand s).phase = s.phase := (rfl)
@[simp] theorem finishCommand_mode (s : State) : (finishCommand s).mode = s.mode := (rfl)
@[simp] theorem finishCommand_key (s : State) : (finishCommand s).key = s.key := (rfl)
@[simp] theorem finishCommand_keyValid (s : State) : (finishCommand s).keyValid = s.keyValid := (rfl)
@[simp] theorem finishCommand_din (s : State) : (finishCommand s).din = s.din := (rfl)
@[simp] theorem finishCommand_err (s : State) : (finishCommand s).err = s.err := (rfl)
@[simp] theorem finishCommand_errcode (s : State) : (finishCommand s).errcode = s.errcode := (rfl)
@[simp] theorem finishCommand_busy (s : State) : (finishCommand s).busy = false := (rfl)
@[simp] theorem finishCommand_pendCmd (s : State) : (finishCommand s).pendCmd = s.pendCmd := (rfl)
@[simp] theorem finishCommand_pendDin (s : State) : (finishCommand s).pendDin = s.pendDin := (rfl)
@[simp] theorem finishCommand_scratch (s : State) : (finishCommand s).scratch = s.scratch := (rfl)
@[simp] theorem finishCommand_latency (s : State) : (finishCommand s).latency = s.latency := (rfl)
@[simp] theorem finishCommand_draws (s : State) : (finishCommand s).draws = s.draws := (rfl)
@[simp] theorem finishCommand_engine (s : State) : (finishCommand s).engine = s.engine := (rfl)
@[simp] theorem finishCommand_resetInput (s : State) : (finishCommand s).resetInput = s.resetInput := (rfl)
@[simp] theorem finishCommand_prog (s : State) : (finishCommand s).prog = s.prog := (rfl)
@[simp] theorem finishCommand_hostPc (s : State) : (finishCommand s).hostPc = s.hostPc := (rfl)
@[simp] theorem finishCommand_hostVars (s : State) : (finishCommand s).hostVars = s.hostVars := (rfl)
@[simp] theorem finishCommand_hostHalted (s : State) : (finishCommand s).hostHalted = s.hostHalted := (rfl)

@[simp] theorem setDin_h (v : Word) (s : State) : (setDin v s).h = s.h := (rfl)
@[simp] theorem setDin_buf (v : Word) (s : State) : (setDin v s).buf = s.buf := (rfl)
@[simp] theorem setDin_buflen (v : Word) (s : State) : (setDin v s).buflen = s.buflen := (rfl)
@[simp] theorem setDin_total (v : Word) (s : State) : (setDin v s).total = s.total := (rfl)
@[simp] theorem setDin_phase (v : Word) (s : State) : (setDin v s).phase = s.phase := (rfl)
@[simp] theorem setDin_mode (v : Word) (s : State) : (setDin v s).mode = s.mode := (rfl)
@[simp] theorem setDin_key (v : Word) (s : State) : (setDin v s).key = s.key := (rfl)
@[simp] theorem setDin_keyValid (v : Word) (s : State) : (setDin v s).keyValid = s.keyValid := (rfl)
@[simp] theorem setDin_din (v : Word) (s : State) : (setDin v s).din = v := (rfl)
@[simp] theorem setDin_err (v : Word) (s : State) : (setDin v s).err = s.err := (rfl)
@[simp] theorem setDin_errcode (v : Word) (s : State) : (setDin v s).errcode = s.errcode := (rfl)
@[simp] theorem setDin_busy (v : Word) (s : State) : (setDin v s).busy = s.busy := (rfl)
@[simp] theorem setDin_pendCmd (v : Word) (s : State) : (setDin v s).pendCmd = s.pendCmd := (rfl)
@[simp] theorem setDin_pendDin (v : Word) (s : State) : (setDin v s).pendDin = s.pendDin := (rfl)
@[simp] theorem setDin_scratch (v : Word) (s : State) : (setDin v s).scratch = s.scratch := (rfl)
@[simp] theorem setDin_latency (v : Word) (s : State) : (setDin v s).latency = s.latency := (rfl)
@[simp] theorem setDin_draws (v : Word) (s : State) : (setDin v s).draws = s.draws := (rfl)
@[simp] theorem setDin_engine (v : Word) (s : State) : (setDin v s).engine = s.engine := (rfl)
@[simp] theorem setDin_resetInput (v : Word) (s : State) : (setDin v s).resetInput = s.resetInput := (rfl)
@[simp] theorem setDin_prog (v : Word) (s : State) : (setDin v s).prog = s.prog := (rfl)
@[simp] theorem setDin_hostPc (v : Word) (s : State) : (setDin v s).hostPc = s.hostPc := (rfl)
@[simp] theorem setDin_hostVars (v : Word) (s : State) : (setDin v s).hostVars = s.hostVars := (rfl)
@[simp] theorem setDin_hostHalted (v : Word) (s : State) : (setDin v s).hostHalted = s.hostHalted := (rfl)

@[simp] theorem countDraw_h (s : State) : (countDraw s).h = s.h := (rfl)
@[simp] theorem countDraw_buf (s : State) : (countDraw s).buf = s.buf := (rfl)
@[simp] theorem countDraw_buflen (s : State) : (countDraw s).buflen = s.buflen := (rfl)
@[simp] theorem countDraw_total (s : State) : (countDraw s).total = s.total := (rfl)
@[simp] theorem countDraw_phase (s : State) : (countDraw s).phase = s.phase := (rfl)
@[simp] theorem countDraw_mode (s : State) : (countDraw s).mode = s.mode := (rfl)
@[simp] theorem countDraw_key (s : State) : (countDraw s).key = s.key := (rfl)
@[simp] theorem countDraw_keyValid (s : State) : (countDraw s).keyValid = s.keyValid := (rfl)
@[simp] theorem countDraw_din (s : State) : (countDraw s).din = s.din := (rfl)
@[simp] theorem countDraw_err (s : State) : (countDraw s).err = s.err := (rfl)
@[simp] theorem countDraw_errcode (s : State) : (countDraw s).errcode = s.errcode := (rfl)
@[simp] theorem countDraw_busy (s : State) : (countDraw s).busy = s.busy := (rfl)
@[simp] theorem countDraw_pendCmd (s : State) : (countDraw s).pendCmd = s.pendCmd := (rfl)
@[simp] theorem countDraw_pendDin (s : State) : (countDraw s).pendDin = s.pendDin := (rfl)
@[simp] theorem countDraw_scratch (s : State) : (countDraw s).scratch = s.scratch := (rfl)
@[simp] theorem countDraw_latency (s : State) : (countDraw s).latency = s.latency := (rfl)
@[simp] theorem countDraw_draws (s : State) : (countDraw s).draws = s.draws + 1 := (rfl)
@[simp] theorem countDraw_engine (s : State) : (countDraw s).engine = s.engine := (rfl)
@[simp] theorem countDraw_resetInput (s : State) : (countDraw s).resetInput = s.resetInput := (rfl)
@[simp] theorem countDraw_prog (s : State) : (countDraw s).prog = s.prog := (rfl)
@[simp] theorem countDraw_hostPc (s : State) : (countDraw s).hostPc = s.hostPc := (rfl)
@[simp] theorem countDraw_hostVars (s : State) : (countDraw s).hostVars = s.hostVars := (rfl)
@[simp] theorem countDraw_hostHalted (s : State) : (countDraw s).hostHalted = s.hostHalted := (rfl)

@[simp] theorem coreInit_h (s : State) : (coreInit s).h = iv := (rfl)
@[simp] theorem coreInit_buf (s : State) : (coreInit s).buf = zeroStore := (rfl)
@[simp] theorem coreInit_buflen (s : State) : (coreInit s).buflen = 0 := (rfl)
@[simp] theorem coreInit_total (s : State) : (coreInit s).total = 0#64 := (rfl)
@[simp] theorem coreInit_phase (s : State) : (coreInit s).phase = .empty := (rfl)
@[simp] theorem coreInit_mode (s : State) : (coreInit s).mode = s.mode := (rfl)
@[simp] theorem coreInit_key (s : State) : (coreInit s).key = s.key := (rfl)
@[simp] theorem coreInit_keyValid (s : State) : (coreInit s).keyValid = s.keyValid := (rfl)
@[simp] theorem coreInit_din (s : State) : (coreInit s).din = s.din := (rfl)
@[simp] theorem coreInit_err (s : State) : (coreInit s).err = s.err := (rfl)
@[simp] theorem coreInit_errcode (s : State) : (coreInit s).errcode = s.errcode := (rfl)
@[simp] theorem coreInit_busy (s : State) : (coreInit s).busy = s.busy := (rfl)
@[simp] theorem coreInit_pendCmd (s : State) : (coreInit s).pendCmd = s.pendCmd := (rfl)
@[simp] theorem coreInit_pendDin (s : State) : (coreInit s).pendDin = s.pendDin := (rfl)
@[simp] theorem coreInit_scratch (s : State) : (coreInit s).scratch = s.scratch := (rfl)
@[simp] theorem coreInit_latency (s : State) : (coreInit s).latency = s.latency := (rfl)
@[simp] theorem coreInit_draws (s : State) : (coreInit s).draws = s.draws := (rfl)
@[simp] theorem coreInit_engine (s : State) : (coreInit s).engine = s.engine := (rfl)
@[simp] theorem coreInit_resetInput (s : State) : (coreInit s).resetInput = s.resetInput := (rfl)
@[simp] theorem coreInit_prog (s : State) : (coreInit s).prog = s.prog := (rfl)
@[simp] theorem coreInit_hostPc (s : State) : (coreInit s).hostPc = s.hostPc := (rfl)
@[simp] theorem coreInit_hostVars (s : State) : (coreInit s).hostVars = s.hostVars := (rfl)
@[simp] theorem coreInit_hostHalted (s : State) : (coreInit s).hostHalted = s.hostHalted := (rfl)

@[simp] theorem hostNext_h (s : State) : (hostNext s).h = s.h := (rfl)
@[simp] theorem hostNext_buf (s : State) : (hostNext s).buf = s.buf := (rfl)
@[simp] theorem hostNext_buflen (s : State) : (hostNext s).buflen = s.buflen := (rfl)
@[simp] theorem hostNext_total (s : State) : (hostNext s).total = s.total := (rfl)
@[simp] theorem hostNext_phase (s : State) : (hostNext s).phase = s.phase := (rfl)
@[simp] theorem hostNext_mode (s : State) : (hostNext s).mode = s.mode := (rfl)
@[simp] theorem hostNext_key (s : State) : (hostNext s).key = s.key := (rfl)
@[simp] theorem hostNext_keyValid (s : State) : (hostNext s).keyValid = s.keyValid := (rfl)
@[simp] theorem hostNext_din (s : State) : (hostNext s).din = s.din := (rfl)
@[simp] theorem hostNext_err (s : State) : (hostNext s).err = s.err := (rfl)
@[simp] theorem hostNext_errcode (s : State) : (hostNext s).errcode = s.errcode := (rfl)
@[simp] theorem hostNext_busy (s : State) : (hostNext s).busy = s.busy := (rfl)
@[simp] theorem hostNext_pendCmd (s : State) : (hostNext s).pendCmd = s.pendCmd := (rfl)
@[simp] theorem hostNext_pendDin (s : State) : (hostNext s).pendDin = s.pendDin := (rfl)
@[simp] theorem hostNext_scratch (s : State) : (hostNext s).scratch = s.scratch := (rfl)
@[simp] theorem hostNext_latency (s : State) : (hostNext s).latency = s.latency := (rfl)
@[simp] theorem hostNext_draws (s : State) : (hostNext s).draws = s.draws := (rfl)
@[simp] theorem hostNext_engine (s : State) : (hostNext s).engine = s.engine := (rfl)
@[simp] theorem hostNext_resetInput (s : State) : (hostNext s).resetInput = s.resetInput := (rfl)
@[simp] theorem hostNext_prog (s : State) : (hostNext s).prog = s.prog := (rfl)
@[simp] theorem hostNext_hostPc (s : State) : (hostNext s).hostPc = s.hostPc + 1 := (rfl)
@[simp] theorem hostNext_hostVars (s : State) : (hostNext s).hostVars = s.hostVars := (rfl)
@[simp] theorem hostNext_hostHalted (s : State) : (hostNext s).hostHalted = s.hostHalted := (rfl)

@[simp] theorem countHostStep_h (s : State) : (countHostStep s).h = s.h := (rfl)
@[simp] theorem countHostStep_buf (s : State) : (countHostStep s).buf = s.buf := (rfl)
@[simp] theorem countHostStep_buflen (s : State) : (countHostStep s).buflen = s.buflen := (rfl)
@[simp] theorem countHostStep_total (s : State) : (countHostStep s).total = s.total := (rfl)
@[simp] theorem countHostStep_phase (s : State) : (countHostStep s).phase = s.phase := (rfl)
@[simp] theorem countHostStep_mode (s : State) : (countHostStep s).mode = s.mode := (rfl)
@[simp] theorem countHostStep_key (s : State) : (countHostStep s).key = s.key := (rfl)
@[simp] theorem countHostStep_keyValid (s : State) : (countHostStep s).keyValid = s.keyValid := (rfl)
@[simp] theorem countHostStep_din (s : State) : (countHostStep s).din = s.din := (rfl)
@[simp] theorem countHostStep_err (s : State) : (countHostStep s).err = s.err := (rfl)
@[simp] theorem countHostStep_errcode (s : State) : (countHostStep s).errcode = s.errcode := (rfl)
@[simp] theorem countHostStep_busy (s : State) : (countHostStep s).busy = s.busy := (rfl)
@[simp] theorem countHostStep_pendCmd (s : State) : (countHostStep s).pendCmd = s.pendCmd := (rfl)
@[simp] theorem countHostStep_pendDin (s : State) : (countHostStep s).pendDin = s.pendDin := (rfl)
@[simp] theorem countHostStep_scratch (s : State) : (countHostStep s).scratch = s.scratch := (rfl)
@[simp] theorem countHostStep_latency (s : State) : (countHostStep s).latency = s.latency - 1 := (rfl)
@[simp] theorem countHostStep_draws (s : State) : (countHostStep s).draws = s.draws := (rfl)
@[simp] theorem countHostStep_engine (s : State) : (countHostStep s).engine = s.engine := (rfl)
@[simp] theorem countHostStep_resetInput (s : State) : (countHostStep s).resetInput = s.resetInput := (rfl)
@[simp] theorem countHostStep_prog (s : State) : (countHostStep s).prog = s.prog := (rfl)
@[simp] theorem countHostStep_hostPc (s : State) : (countHostStep s).hostPc = s.hostPc := (rfl)
@[simp] theorem countHostStep_hostVars (s : State) : (countHostStep s).hostVars = s.hostVars := (rfl)
@[simp] theorem countHostStep_hostHalted (s : State) : (countHostStep s).hostHalted = s.hostHalted := (rfl)

@[simp] theorem consumeSample_h (s : State) : (consumeSample s).h = s.h := (rfl)
@[simp] theorem consumeSample_buf (s : State) : (consumeSample s).buf = s.buf := (rfl)
@[simp] theorem consumeSample_buflen (s : State) : (consumeSample s).buflen = s.buflen := (rfl)
@[simp] theorem consumeSample_total (s : State) : (consumeSample s).total = s.total := (rfl)
@[simp] theorem consumeSample_phase (s : State) : (consumeSample s).phase = s.phase := (rfl)
@[simp] theorem consumeSample_mode (s : State) : (consumeSample s).mode = s.mode := (rfl)
@[simp] theorem consumeSample_key (s : State) : (consumeSample s).key = s.key := (rfl)
@[simp] theorem consumeSample_keyValid (s : State) : (consumeSample s).keyValid = s.keyValid := (rfl)
@[simp] theorem consumeSample_din (s : State) : (consumeSample s).din = s.din := (rfl)
@[simp] theorem consumeSample_err (s : State) : (consumeSample s).err = s.err := (rfl)
@[simp] theorem consumeSample_errcode (s : State) : (consumeSample s).errcode = s.errcode := (rfl)
@[simp] theorem consumeSample_busy (s : State) : (consumeSample s).busy = s.busy := (rfl)
@[simp] theorem consumeSample_pendCmd (s : State) : (consumeSample s).pendCmd = s.pendCmd := (rfl)
@[simp] theorem consumeSample_pendDin (s : State) : (consumeSample s).pendDin = s.pendDin := (rfl)
@[simp] theorem consumeSample_scratch (s : State) : (consumeSample s).scratch = s.scratch := (rfl)
@[simp] theorem consumeSample_latency (s : State) : (consumeSample s).latency = s.latency := (rfl)
@[simp] theorem consumeSample_draws (s : State) : (consumeSample s).draws = s.draws := (rfl)
@[simp] theorem consumeSample_engine (s : State) : (consumeSample s).engine = s.engine := (rfl)
@[simp] theorem consumeSample_resetInput (s : State) : (consumeSample s).resetInput = s.resetInput.tail := (rfl)
@[simp] theorem consumeSample_prog (s : State) : (consumeSample s).prog = s.prog := (rfl)
@[simp] theorem consumeSample_hostPc (s : State) : (consumeSample s).hostPc = s.hostPc := (rfl)
@[simp] theorem consumeSample_hostVars (s : State) : (consumeSample s).hostVars = s.hostVars := (rfl)
@[simp] theorem consumeSample_hostHalted (s : State) : (consumeSample s).hostHalted = s.hostHalted := (rfl)

@[simp] theorem resetEngine_h (s : State) : (resetEngine s).h = State.reset.h := (rfl)
@[simp] theorem resetEngine_buf (s : State) : (resetEngine s).buf = State.reset.buf := (rfl)
@[simp] theorem resetEngine_buflen (s : State) : (resetEngine s).buflen = State.reset.buflen := (rfl)
@[simp] theorem resetEngine_total (s : State) : (resetEngine s).total = State.reset.total := (rfl)
@[simp] theorem resetEngine_phase (s : State) : (resetEngine s).phase = State.reset.phase := (rfl)
@[simp] theorem resetEngine_mode (s : State) : (resetEngine s).mode = State.reset.mode := (rfl)
@[simp] theorem resetEngine_key (s : State) : (resetEngine s).key = State.reset.key := (rfl)
@[simp] theorem resetEngine_keyValid (s : State) : (resetEngine s).keyValid = State.reset.keyValid := (rfl)
@[simp] theorem resetEngine_din (s : State) : (resetEngine s).din = State.reset.din := (rfl)
@[simp] theorem resetEngine_err (s : State) : (resetEngine s).err = State.reset.err := (rfl)
@[simp] theorem resetEngine_errcode (s : State) : (resetEngine s).errcode = State.reset.errcode := (rfl)
@[simp] theorem resetEngine_busy (s : State) : (resetEngine s).busy = State.reset.busy := (rfl)
@[simp] theorem resetEngine_pendCmd (s : State) : (resetEngine s).pendCmd = State.reset.pendCmd := (rfl)
@[simp] theorem resetEngine_pendDin (s : State) : (resetEngine s).pendDin = State.reset.pendDin := (rfl)
@[simp] theorem resetEngine_scratch (s : State) : (resetEngine s).scratch = State.reset.scratch := (rfl)
@[simp] theorem resetEngine_latency (s : State) : (resetEngine s).latency = State.reset.latency := (rfl)
@[simp] theorem resetEngine_draws (s : State) : (resetEngine s).draws = s.draws := (rfl)
@[simp] theorem resetEngine_engine (s : State) : (resetEngine s).engine = s.engine := (rfl)
@[simp] theorem resetEngine_resetInput (s : State) : (resetEngine s).resetInput = s.resetInput := (rfl)
@[simp] theorem resetEngine_prog (s : State) : (resetEngine s).prog = s.prog := (rfl)
@[simp] theorem resetEngine_hostPc (s : State) : (resetEngine s).hostPc = s.hostPc := (rfl)
@[simp] theorem resetEngine_hostVars (s : State) : (resetEngine s).hostVars = s.hostVars := (rfl)
@[simp] theorem resetEngine_hostHalted (s : State) : (resetEngine s).hostHalted = s.hostHalted := (rfl)

@[simp] theorem withFetchWord_h (s : State) (nbits w : Nat) : (s.withFetchWord nbits w).h = s.h := (rfl)
@[simp] theorem withFetchWord_buf (s : State) (nbits w : Nat) : (s.withFetchWord nbits w).buf = s.buf := (rfl)
@[simp] theorem withFetchWord_buflen (s : State) (nbits w : Nat) : (s.withFetchWord nbits w).buflen = s.buflen := (rfl)
@[simp] theorem withFetchWord_total (s : State) (nbits w : Nat) : (s.withFetchWord nbits w).total = s.total := (rfl)
@[simp] theorem withFetchWord_phase (s : State) (nbits w : Nat) : (s.withFetchWord nbits w).phase = s.phase := (rfl)
@[simp] theorem withFetchWord_mode (s : State) (nbits w : Nat) : (s.withFetchWord nbits w).mode = s.mode := (rfl)
@[simp] theorem withFetchWord_key (s : State) (nbits w : Nat) : (s.withFetchWord nbits w).key = s.key := (rfl)
@[simp] theorem withFetchWord_keyValid (s : State) (nbits w : Nat) : (s.withFetchWord nbits w).keyValid = s.keyValid := (rfl)
@[simp] theorem withFetchWord_din (s : State) (nbits w : Nat) : (s.withFetchWord nbits w).din = s.din := (rfl)
@[simp] theorem withFetchWord_err (s : State) (nbits w : Nat) : (s.withFetchWord nbits w).err = s.err := (rfl)
@[simp] theorem withFetchWord_errcode (s : State) (nbits w : Nat) : (s.withFetchWord nbits w).errcode = s.errcode := (rfl)
@[simp] theorem withFetchWord_busy (s : State) (nbits w : Nat) : (s.withFetchWord nbits w).busy = true := (rfl)
@[simp] theorem withFetchWord_pendCmd (s : State) (nbits w : Nat) : (s.withFetchWord nbits w).pendCmd = BitVec.ofNat 32 (w % 2 ^ nbits) := (rfl)
@[simp] theorem withFetchWord_pendDin (s : State) (nbits w : Nat) : (s.withFetchWord nbits w).pendDin = s.pendDin := (rfl)
@[simp] theorem withFetchWord_scratch (s : State) (nbits w : Nat) : (s.withFetchWord nbits w).scratch = s.scratch := (rfl)
@[simp] theorem withFetchWord_latency (s : State) (nbits w : Nat) : (s.withFetchWord nbits w).latency = 0 := (rfl)
@[simp] theorem withFetchWord_draws (s : State) (nbits w : Nat) : (s.withFetchWord nbits w).draws = s.draws := (rfl)
@[simp] theorem withFetchWord_engine (s : State) (nbits w : Nat) : (s.withFetchWord nbits w).engine = s.engine := (rfl)
@[simp] theorem withFetchWord_resetInput (s : State) (nbits w : Nat) : (s.withFetchWord nbits w).resetInput = .quiet :: s.resetInput := (rfl)
@[simp] theorem withFetchWord_prog (s : State) (nbits w : Nat) : (s.withFetchWord nbits w).prog = s.prog := (rfl)
@[simp] theorem withFetchWord_hostPc (s : State) (nbits w : Nat) : (s.withFetchWord nbits w).hostPc = s.hostPc := (rfl)
@[simp] theorem withFetchWord_hostVars (s : State) (nbits w : Nat) : (s.withFetchWord nbits w).hostVars = s.hostVars := (rfl)
@[simp] theorem withFetchWord_hostHalted (s : State) (nbits w : Nat) : (s.withFetchWord nbits w).hostHalted = s.hostHalted := (rfl)

@[simp] theorem assignRead_h (dst : Option Nat) (v : Word) (s : State) : (assignRead dst v s).h = s.h := by cases dst <;> rfl
@[simp] theorem assignRead_buf (dst : Option Nat) (v : Word) (s : State) : (assignRead dst v s).buf = s.buf := by cases dst <;> rfl
@[simp] theorem assignRead_buflen (dst : Option Nat) (v : Word) (s : State) : (assignRead dst v s).buflen = s.buflen := by cases dst <;> rfl
@[simp] theorem assignRead_total (dst : Option Nat) (v : Word) (s : State) : (assignRead dst v s).total = s.total := by cases dst <;> rfl
@[simp] theorem assignRead_phase (dst : Option Nat) (v : Word) (s : State) : (assignRead dst v s).phase = s.phase := by cases dst <;> rfl
@[simp] theorem assignRead_mode (dst : Option Nat) (v : Word) (s : State) : (assignRead dst v s).mode = s.mode := by cases dst <;> rfl
@[simp] theorem assignRead_key (dst : Option Nat) (v : Word) (s : State) : (assignRead dst v s).key = s.key := by cases dst <;> rfl
@[simp] theorem assignRead_keyValid (dst : Option Nat) (v : Word) (s : State) : (assignRead dst v s).keyValid = s.keyValid := by cases dst <;> rfl
@[simp] theorem assignRead_din (dst : Option Nat) (v : Word) (s : State) : (assignRead dst v s).din = s.din := by cases dst <;> rfl
@[simp] theorem assignRead_err (dst : Option Nat) (v : Word) (s : State) : (assignRead dst v s).err = s.err := by cases dst <;> rfl
@[simp] theorem assignRead_errcode (dst : Option Nat) (v : Word) (s : State) : (assignRead dst v s).errcode = s.errcode := by cases dst <;> rfl
@[simp] theorem assignRead_busy (dst : Option Nat) (v : Word) (s : State) : (assignRead dst v s).busy = s.busy := by cases dst <;> rfl
@[simp] theorem assignRead_pendCmd (dst : Option Nat) (v : Word) (s : State) : (assignRead dst v s).pendCmd = s.pendCmd := by cases dst <;> rfl
@[simp] theorem assignRead_pendDin (dst : Option Nat) (v : Word) (s : State) : (assignRead dst v s).pendDin = s.pendDin := by cases dst <;> rfl
@[simp] theorem assignRead_scratch (dst : Option Nat) (v : Word) (s : State) : (assignRead dst v s).scratch = s.scratch := by cases dst <;> rfl
@[simp] theorem assignRead_latency (dst : Option Nat) (v : Word) (s : State) : (assignRead dst v s).latency = s.latency := by cases dst <;> rfl
@[simp] theorem assignRead_draws (dst : Option Nat) (v : Word) (s : State) : (assignRead dst v s).draws = s.draws := by cases dst <;> rfl
@[simp] theorem assignRead_engine (dst : Option Nat) (v : Word) (s : State) : (assignRead dst v s).engine = s.engine := by cases dst <;> rfl
@[simp] theorem assignRead_resetInput (dst : Option Nat) (v : Word) (s : State) : (assignRead dst v s).resetInput = s.resetInput := by cases dst <;> rfl
@[simp] theorem assignRead_prog (dst : Option Nat) (v : Word) (s : State) : (assignRead dst v s).prog = s.prog := by cases dst <;> rfl
@[simp] theorem assignRead_hostPc (dst : Option Nat) (v : Word) (s : State) : (assignRead dst v s).hostPc = s.hostPc := by cases dst <;> rfl
@[simp] theorem assignRead_hostHalted (dst : Option Nat) (v : Word) (s : State) : (assignRead dst v s).hostHalted = s.hostHalted := by cases dst <;> rfl

@[simp] theorem countAppended_h (d : List Byte) (s : State) : (countAppended d s).h = s.h := (rfl)
@[simp] theorem countAppended_buf (d : List Byte) (s : State) : (countAppended d s).buf = s.buf := (rfl)
@[simp] theorem countAppended_buflen (d : List Byte) (s : State) : (countAppended d s).buflen = s.buflen := (rfl)
@[simp] theorem countAppended_total (d : List Byte) (s : State) : (countAppended d s).total = s.total + BitVec.ofNat 64 d.length := (rfl)
@[simp] theorem countAppended_phase (d : List Byte) (s : State) : (countAppended d s).phase = if d.isEmpty then s.phase else .accumulating := (rfl)
@[simp] theorem countAppended_mode (d : List Byte) (s : State) : (countAppended d s).mode = s.mode := (rfl)
@[simp] theorem countAppended_key (d : List Byte) (s : State) : (countAppended d s).key = s.key := (rfl)
@[simp] theorem countAppended_keyValid (d : List Byte) (s : State) : (countAppended d s).keyValid = s.keyValid := (rfl)
@[simp] theorem countAppended_din (d : List Byte) (s : State) : (countAppended d s).din = s.din := (rfl)
@[simp] theorem countAppended_err (d : List Byte) (s : State) : (countAppended d s).err = s.err := (rfl)
@[simp] theorem countAppended_errcode (d : List Byte) (s : State) : (countAppended d s).errcode = s.errcode := (rfl)
@[simp] theorem countAppended_busy (d : List Byte) (s : State) : (countAppended d s).busy = s.busy := (rfl)
@[simp] theorem countAppended_pendCmd (d : List Byte) (s : State) : (countAppended d s).pendCmd = s.pendCmd := (rfl)
@[simp] theorem countAppended_pendDin (d : List Byte) (s : State) : (countAppended d s).pendDin = s.pendDin := (rfl)
@[simp] theorem countAppended_scratch (d : List Byte) (s : State) : (countAppended d s).scratch = s.scratch := (rfl)
@[simp] theorem countAppended_latency (d : List Byte) (s : State) : (countAppended d s).latency = s.latency := (rfl)
@[simp] theorem countAppended_draws (d : List Byte) (s : State) : (countAppended d s).draws = s.draws := (rfl)
@[simp] theorem countAppended_engine (d : List Byte) (s : State) : (countAppended d s).engine = s.engine := (rfl)
@[simp] theorem countAppended_resetInput (d : List Byte) (s : State) : (countAppended d s).resetInput = s.resetInput := (rfl)
@[simp] theorem countAppended_prog (d : List Byte) (s : State) : (countAppended d s).prog = s.prog := (rfl)
@[simp] theorem countAppended_hostPc (d : List Byte) (s : State) : (countAppended d s).hostPc = s.hostPc := (rfl)
@[simp] theorem countAppended_hostVars (d : List Byte) (s : State) : (countAppended d s).hostVars = s.hostVars := (rfl)
@[simp] theorem countAppended_hostHalted (d : List Byte) (s : State) : (countAppended d s).hostHalted = s.hostHalted := (rfl)

@[simp] theorem storeKeyData_h (d : List Byte) (s : State) : (storeKeyData d s).h = s.h := (rfl)
@[simp] theorem storeKeyData_buf (d : List Byte) (s : State) : (storeKeyData d s).buf = s.buf := (rfl)
@[simp] theorem storeKeyData_buflen (d : List Byte) (s : State) : (storeKeyData d s).buflen = s.buflen := (rfl)
@[simp] theorem storeKeyData_total (d : List Byte) (s : State) : (storeKeyData d s).total = s.total := (rfl)
@[simp] theorem storeKeyData_phase (d : List Byte) (s : State) : (storeKeyData d s).phase = s.phase := (rfl)
@[simp] theorem storeKeyData_mode (d : List Byte) (s : State) : (storeKeyData d s).mode = s.mode := (rfl)
@[simp] theorem storeKeyData_key (d : List Byte) (s : State) : (storeKeyData d s).key = storeKeyBytes d s.total.toNat s.key := (rfl)
@[simp] theorem storeKeyData_keyValid (d : List Byte) (s : State) : (storeKeyData d s).keyValid = s.keyValid := (rfl)
@[simp] theorem storeKeyData_din (d : List Byte) (s : State) : (storeKeyData d s).din = s.din := (rfl)
@[simp] theorem storeKeyData_err (d : List Byte) (s : State) : (storeKeyData d s).err = s.err := (rfl)
@[simp] theorem storeKeyData_errcode (d : List Byte) (s : State) : (storeKeyData d s).errcode = s.errcode := (rfl)
@[simp] theorem storeKeyData_busy (d : List Byte) (s : State) : (storeKeyData d s).busy = s.busy := (rfl)
@[simp] theorem storeKeyData_pendCmd (d : List Byte) (s : State) : (storeKeyData d s).pendCmd = s.pendCmd := (rfl)
@[simp] theorem storeKeyData_pendDin (d : List Byte) (s : State) : (storeKeyData d s).pendDin = s.pendDin := (rfl)
@[simp] theorem storeKeyData_scratch (d : List Byte) (s : State) : (storeKeyData d s).scratch = s.scratch := (rfl)
@[simp] theorem storeKeyData_latency (d : List Byte) (s : State) : (storeKeyData d s).latency = s.latency := (rfl)
@[simp] theorem storeKeyData_draws (d : List Byte) (s : State) : (storeKeyData d s).draws = s.draws := (rfl)
@[simp] theorem storeKeyData_engine (d : List Byte) (s : State) : (storeKeyData d s).engine = s.engine := (rfl)
@[simp] theorem storeKeyData_resetInput (d : List Byte) (s : State) : (storeKeyData d s).resetInput = s.resetInput := (rfl)
@[simp] theorem storeKeyData_prog (d : List Byte) (s : State) : (storeKeyData d s).prog = s.prog := (rfl)
@[simp] theorem storeKeyData_hostPc (d : List Byte) (s : State) : (storeKeyData d s).hostPc = s.hostPc := (rfl)
@[simp] theorem storeKeyData_hostVars (d : List Byte) (s : State) : (storeKeyData d s).hostVars = s.hostVars := (rfl)
@[simp] theorem storeKeyData_hostHalted (d : List Byte) (s : State) : (storeKeyData d s).hostHalted = s.hostHalted := (rfl)

@[simp] theorem storeDigestKey_h (s : State) : (storeDigestKey s).h = s.h := (rfl)
@[simp] theorem storeDigestKey_buf (s : State) : (storeDigestKey s).buf = s.buf := (rfl)
@[simp] theorem storeDigestKey_buflen (s : State) : (storeDigestKey s).buflen = s.buflen := (rfl)
@[simp] theorem storeDigestKey_total (s : State) : (storeDigestKey s).total = s.total := (rfl)
@[simp] theorem storeDigestKey_phase (s : State) : (storeDigestKey s).phase = s.phase := (rfl)
@[simp] theorem storeDigestKey_mode (s : State) : (storeDigestKey s).mode = s.mode := (rfl)
@[simp] theorem storeDigestKey_key (s : State) : (storeDigestKey s).key = keyOfDigest s.h := (rfl)
@[simp] theorem storeDigestKey_keyValid (s : State) : (storeDigestKey s).keyValid = s.keyValid := (rfl)
@[simp] theorem storeDigestKey_din (s : State) : (storeDigestKey s).din = s.din := (rfl)
@[simp] theorem storeDigestKey_err (s : State) : (storeDigestKey s).err = s.err := (rfl)
@[simp] theorem storeDigestKey_errcode (s : State) : (storeDigestKey s).errcode = s.errcode := (rfl)
@[simp] theorem storeDigestKey_busy (s : State) : (storeDigestKey s).busy = s.busy := (rfl)
@[simp] theorem storeDigestKey_pendCmd (s : State) : (storeDigestKey s).pendCmd = s.pendCmd := (rfl)
@[simp] theorem storeDigestKey_pendDin (s : State) : (storeDigestKey s).pendDin = s.pendDin := (rfl)
@[simp] theorem storeDigestKey_scratch (s : State) : (storeDigestKey s).scratch = s.scratch := (rfl)
@[simp] theorem storeDigestKey_latency (s : State) : (storeDigestKey s).latency = s.latency := (rfl)
@[simp] theorem storeDigestKey_draws (s : State) : (storeDigestKey s).draws = s.draws := (rfl)
@[simp] theorem storeDigestKey_engine (s : State) : (storeDigestKey s).engine = s.engine := (rfl)
@[simp] theorem storeDigestKey_resetInput (s : State) : (storeDigestKey s).resetInput = s.resetInput := (rfl)
@[simp] theorem storeDigestKey_prog (s : State) : (storeDigestKey s).prog = s.prog := (rfl)
@[simp] theorem storeDigestKey_hostPc (s : State) : (storeDigestKey s).hostPc = s.hostPc := (rfl)
@[simp] theorem storeDigestKey_hostVars (s : State) : (storeDigestKey s).hostVars = s.hostVars := (rfl)
@[simp] theorem storeDigestKey_hostHalted (s : State) : (storeDigestKey s).hostHalted = s.hostHalted := (rfl)

@[simp] theorem clearKey_h (s : State) : (clearKey s).h = s.h := (rfl)
@[simp] theorem clearKey_buf (s : State) : (clearKey s).buf = s.buf := (rfl)
@[simp] theorem clearKey_buflen (s : State) : (clearKey s).buflen = s.buflen := (rfl)
@[simp] theorem clearKey_total (s : State) : (clearKey s).total = s.total := (rfl)
@[simp] theorem clearKey_phase (s : State) : (clearKey s).phase = s.phase := (rfl)
@[simp] theorem clearKey_mode (s : State) : (clearKey s).mode = s.mode := (rfl)
@[simp] theorem clearKey_key (s : State) : (clearKey s).key = zeroStore := (rfl)
@[simp] theorem clearKey_keyValid (s : State) : (clearKey s).keyValid = false := (rfl)
@[simp] theorem clearKey_din (s : State) : (clearKey s).din = s.din := (rfl)
@[simp] theorem clearKey_err (s : State) : (clearKey s).err = s.err := (rfl)
@[simp] theorem clearKey_errcode (s : State) : (clearKey s).errcode = s.errcode := (rfl)
@[simp] theorem clearKey_busy (s : State) : (clearKey s).busy = s.busy := (rfl)
@[simp] theorem clearKey_pendCmd (s : State) : (clearKey s).pendCmd = s.pendCmd := (rfl)
@[simp] theorem clearKey_pendDin (s : State) : (clearKey s).pendDin = s.pendDin := (rfl)
@[simp] theorem clearKey_scratch (s : State) : (clearKey s).scratch = s.scratch := (rfl)
@[simp] theorem clearKey_latency (s : State) : (clearKey s).latency = s.latency := (rfl)
@[simp] theorem clearKey_draws (s : State) : (clearKey s).draws = s.draws := (rfl)
@[simp] theorem clearKey_engine (s : State) : (clearKey s).engine = s.engine := (rfl)
@[simp] theorem clearKey_resetInput (s : State) : (clearKey s).resetInput = s.resetInput := (rfl)
@[simp] theorem clearKey_prog (s : State) : (clearKey s).prog = s.prog := (rfl)
@[simp] theorem clearKey_hostPc (s : State) : (clearKey s).hostPc = s.hostPc := (rfl)
@[simp] theorem clearKey_hostVars (s : State) : (clearKey s).hostVars = s.hostVars := (rfl)
@[simp] theorem clearKey_hostHalted (s : State) : (clearKey s).hostHalted = s.hostHalted := (rfl)

@[simp] theorem validateKey_h (s : State) : (validateKey s).h = s.h := (rfl)
@[simp] theorem validateKey_buf (s : State) : (validateKey s).buf = s.buf := (rfl)
@[simp] theorem validateKey_buflen (s : State) : (validateKey s).buflen = s.buflen := (rfl)
@[simp] theorem validateKey_total (s : State) : (validateKey s).total = s.total := (rfl)
@[simp] theorem validateKey_phase (s : State) : (validateKey s).phase = s.phase := (rfl)
@[simp] theorem validateKey_mode (s : State) : (validateKey s).mode = s.mode := (rfl)
@[simp] theorem validateKey_key (s : State) : (validateKey s).key = s.key := (rfl)
@[simp] theorem validateKey_keyValid (s : State) : (validateKey s).keyValid = true := (rfl)
@[simp] theorem validateKey_din (s : State) : (validateKey s).din = s.din := (rfl)
@[simp] theorem validateKey_err (s : State) : (validateKey s).err = s.err := (rfl)
@[simp] theorem validateKey_errcode (s : State) : (validateKey s).errcode = s.errcode := (rfl)
@[simp] theorem validateKey_busy (s : State) : (validateKey s).busy = s.busy := (rfl)
@[simp] theorem validateKey_pendCmd (s : State) : (validateKey s).pendCmd = s.pendCmd := (rfl)
@[simp] theorem validateKey_pendDin (s : State) : (validateKey s).pendDin = s.pendDin := (rfl)
@[simp] theorem validateKey_scratch (s : State) : (validateKey s).scratch = s.scratch := (rfl)
@[simp] theorem validateKey_latency (s : State) : (validateKey s).latency = s.latency := (rfl)
@[simp] theorem validateKey_draws (s : State) : (validateKey s).draws = s.draws := (rfl)
@[simp] theorem validateKey_engine (s : State) : (validateKey s).engine = s.engine := (rfl)
@[simp] theorem validateKey_resetInput (s : State) : (validateKey s).resetInput = s.resetInput := (rfl)
@[simp] theorem validateKey_prog (s : State) : (validateKey s).prog = s.prog := (rfl)
@[simp] theorem validateKey_hostPc (s : State) : (validateKey s).hostPc = s.hostPc := (rfl)
@[simp] theorem validateKey_hostVars (s : State) : (validateKey s).hostVars = s.hostVars := (rfl)
@[simp] theorem validateKey_hostHalted (s : State) : (validateKey s).hostHalted = s.hostHalted := (rfl)

@[simp] theorem setMode_h (m : Mode) (s : State) : (setMode m s).h = s.h := (rfl)
@[simp] theorem setMode_buf (m : Mode) (s : State) : (setMode m s).buf = s.buf := (rfl)
@[simp] theorem setMode_buflen (m : Mode) (s : State) : (setMode m s).buflen = s.buflen := (rfl)
@[simp] theorem setMode_total (m : Mode) (s : State) : (setMode m s).total = s.total := (rfl)
@[simp] theorem setMode_phase (m : Mode) (s : State) : (setMode m s).phase = s.phase := (rfl)
@[simp] theorem setMode_mode (m : Mode) (s : State) : (setMode m s).mode = m := (rfl)
@[simp] theorem setMode_key (m : Mode) (s : State) : (setMode m s).key = s.key := (rfl)
@[simp] theorem setMode_keyValid (m : Mode) (s : State) : (setMode m s).keyValid = s.keyValid := (rfl)
@[simp] theorem setMode_din (m : Mode) (s : State) : (setMode m s).din = s.din := (rfl)
@[simp] theorem setMode_err (m : Mode) (s : State) : (setMode m s).err = s.err := (rfl)
@[simp] theorem setMode_errcode (m : Mode) (s : State) : (setMode m s).errcode = s.errcode := (rfl)
@[simp] theorem setMode_busy (m : Mode) (s : State) : (setMode m s).busy = s.busy := (rfl)
@[simp] theorem setMode_pendCmd (m : Mode) (s : State) : (setMode m s).pendCmd = s.pendCmd := (rfl)
@[simp] theorem setMode_pendDin (m : Mode) (s : State) : (setMode m s).pendDin = s.pendDin := (rfl)
@[simp] theorem setMode_scratch (m : Mode) (s : State) : (setMode m s).scratch = s.scratch := (rfl)
@[simp] theorem setMode_latency (m : Mode) (s : State) : (setMode m s).latency = s.latency := (rfl)
@[simp] theorem setMode_draws (m : Mode) (s : State) : (setMode m s).draws = s.draws := (rfl)
@[simp] theorem setMode_engine (m : Mode) (s : State) : (setMode m s).engine = s.engine := (rfl)
@[simp] theorem setMode_resetInput (m : Mode) (s : State) : (setMode m s).resetInput = s.resetInput := (rfl)
@[simp] theorem setMode_prog (m : Mode) (s : State) : (setMode m s).prog = s.prog := (rfl)
@[simp] theorem setMode_hostPc (m : Mode) (s : State) : (setMode m s).hostPc = s.hostPc := (rfl)
@[simp] theorem setMode_hostVars (m : Mode) (s : State) : (setMode m s).hostVars = s.hostVars := (rfl)
@[simp] theorem setMode_hostHalted (m : Mode) (s : State) : (setMode m s).hostHalted = s.hostHalted := (rfl)

@[simp] theorem markFinalized_h (s : State) : (markFinalized s).h = s.h := (rfl)
@[simp] theorem markFinalized_buf (s : State) : (markFinalized s).buf = s.buf := (rfl)
@[simp] theorem markFinalized_buflen (s : State) : (markFinalized s).buflen = s.buflen := (rfl)
@[simp] theorem markFinalized_total (s : State) : (markFinalized s).total = s.total := (rfl)
@[simp] theorem markFinalized_phase (s : State) : (markFinalized s).phase = .finalized := (rfl)
@[simp] theorem markFinalized_mode (s : State) : (markFinalized s).mode = s.mode := (rfl)
@[simp] theorem markFinalized_key (s : State) : (markFinalized s).key = s.key := (rfl)
@[simp] theorem markFinalized_keyValid (s : State) : (markFinalized s).keyValid = s.keyValid := (rfl)
@[simp] theorem markFinalized_din (s : State) : (markFinalized s).din = s.din := (rfl)
@[simp] theorem markFinalized_err (s : State) : (markFinalized s).err = s.err := (rfl)
@[simp] theorem markFinalized_errcode (s : State) : (markFinalized s).errcode = s.errcode := (rfl)
@[simp] theorem markFinalized_busy (s : State) : (markFinalized s).busy = s.busy := (rfl)
@[simp] theorem markFinalized_pendCmd (s : State) : (markFinalized s).pendCmd = s.pendCmd := (rfl)
@[simp] theorem markFinalized_pendDin (s : State) : (markFinalized s).pendDin = s.pendDin := (rfl)
@[simp] theorem markFinalized_scratch (s : State) : (markFinalized s).scratch = s.scratch := (rfl)
@[simp] theorem markFinalized_latency (s : State) : (markFinalized s).latency = s.latency := (rfl)
@[simp] theorem markFinalized_draws (s : State) : (markFinalized s).draws = s.draws := (rfl)
@[simp] theorem markFinalized_engine (s : State) : (markFinalized s).engine = s.engine := (rfl)
@[simp] theorem markFinalized_resetInput (s : State) : (markFinalized s).resetInput = s.resetInput := (rfl)
@[simp] theorem markFinalized_prog (s : State) : (markFinalized s).prog = s.prog := (rfl)
@[simp] theorem markFinalized_hostPc (s : State) : (markFinalized s).hostPc = s.hostPc := (rfl)
@[simp] theorem markFinalized_hostVars (s : State) : (markFinalized s).hostVars = s.hostVars := (rfl)
@[simp] theorem markFinalized_hostHalted (s : State) : (markFinalized s).hostHalted = s.hostHalted := (rfl)

end Sys2Proof.Machine
end

