-- ==== Sys2Proof/Laws/Streaming.lean ====
section
/-! SUPPORT. What absorbing bytes can change and what it cannot: only `H`, `BUF`, `BUFLEN`, the scratch and
the count of draws move (spec/40_word_buffer.md R134, spec/41_streaming.md R150 to R152). -/

namespace Sys2Proof.Machine

/-- `AbsorbByte` below a full buffer (R134). -/
theorem absorbByte_of_lt (b : Byte) (s : State) (hlt : s.buflen.val + 1 < 128) :
    absorbByte b s = { s with buf := orByte s.buf s.buflen b, buflen := ⟨s.buflen.val + 1, hlt⟩ } := by
  simp [absorbByte, hlt]

/-- `AbsorbByte` of the 128th byte (R134). -/
theorem absorbByte_of_full (b : Byte) (s : State) (hfull : ¬ s.buflen.val + 1 < 128) :
    absorbByte b s =
      { s with h := compress s.h (orByte s.buf s.buflen b), buf := zeroStore, buflen := 0,
               scratch := Config.scratchLeft s.engine s.draws, draws := s.draws + 1 } := by
  simp [absorbByte, hfull]

/-- `BUFLEN` after one byte, modulo the block size. -/
theorem absorbByte_buflen (b : Byte) (s : State) :
    (absorbByte b s).buflen.val = (s.buflen.val + 1) % 128 := by
  have := s.buflen.isLt
  by_cases hlt : s.buflen.val + 1 < 128
  · rw [absorbByte_of_lt b s hlt]; simp only []; omega
  · rw [absorbByte_of_full b s hlt]; simp only [Fin.val_zero]; omega

@[simp] theorem absorbByte_total (b : Byte) (s : State) : (absorbByte b s).total = s.total := by unfold absorbByte; split <;> rfl
@[simp] theorem absorbByte_phase (b : Byte) (s : State) : (absorbByte b s).phase = s.phase := by unfold absorbByte; split <;> rfl
@[simp] theorem absorbByte_mode (b : Byte) (s : State) : (absorbByte b s).mode = s.mode := by unfold absorbByte; split <;> rfl
@[simp] theorem absorbByte_key (b : Byte) (s : State) : (absorbByte b s).key = s.key := by unfold absorbByte; split <;> rfl
@[simp] theorem absorbByte_keyValid (b : Byte) (s : State) : (absorbByte b s).keyValid = s.keyValid := by unfold absorbByte; split <;> rfl
@[simp] theorem absorbByte_din (b : Byte) (s : State) : (absorbByte b s).din = s.din := by unfold absorbByte; split <;> rfl
@[simp] theorem absorbByte_err (b : Byte) (s : State) : (absorbByte b s).err = s.err := by unfold absorbByte; split <;> rfl
@[simp] theorem absorbByte_errcode (b : Byte) (s : State) : (absorbByte b s).errcode = s.errcode := by unfold absorbByte; split <;> rfl
@[simp] theorem absorbByte_busy (b : Byte) (s : State) : (absorbByte b s).busy = s.busy := by unfold absorbByte; split <;> rfl
@[simp] theorem absorbByte_pendCmd (b : Byte) (s : State) : (absorbByte b s).pendCmd = s.pendCmd := by unfold absorbByte; split <;> rfl
@[simp] theorem absorbByte_pendDin (b : Byte) (s : State) : (absorbByte b s).pendDin = s.pendDin := by unfold absorbByte; split <;> rfl
@[simp] theorem absorbByte_latency (b : Byte) (s : State) : (absorbByte b s).latency = s.latency := by unfold absorbByte; split <;> rfl
@[simp] theorem absorbByte_resetInput (b : Byte) (s : State) : (absorbByte b s).resetInput = s.resetInput := by unfold absorbByte; split <;> rfl
@[simp] theorem absorbByte_prog (b : Byte) (s : State) : (absorbByte b s).prog = s.prog := by unfold absorbByte; split <;> rfl
@[simp] theorem absorbByte_hostPc (b : Byte) (s : State) : (absorbByte b s).hostPc = s.hostPc := by unfold absorbByte; split <;> rfl
@[simp] theorem absorbByte_hostVars (b : Byte) (s : State) : (absorbByte b s).hostVars = s.hostVars := by unfold absorbByte; split <;> rfl
@[simp] theorem absorbByte_hostHalted (b : Byte) (s : State) : (absorbByte b s).hostHalted = s.hostHalted := by unfold absorbByte; split <;> rfl
@[simp] theorem absorbByte_engine (b : Byte) (s : State) : (absorbByte b s).engine = s.engine := by unfold absorbByte; split <;> rfl

@[simp] theorem absorbBytes_nil (s : State) : absorbBytes [] s = s := rfl
@[simp] theorem absorbBytes_cons (b : Byte) (bs : List Byte) (s : State) :
    absorbBytes (b :: bs) s = absorbBytes bs (absorbByte b s) := rfl

/-- Absorbing is by byte, so it splits over `++`. -/
theorem absorbBytes_append (bs cs : List Byte) (s : State) :
    absorbBytes (bs ++ cs) s = absorbBytes cs (absorbBytes bs s) := by
  simp [absorbBytes, List.foldl_append]

/-- `BUFLEN` after a byte sequence, modulo the block size. -/
theorem absorbBytes_buflen (bs : List Byte) (s : State) :
    (absorbBytes bs s).buflen.val = (s.buflen.val + bs.length) % 128 := by
  induction bs generalizing s with
  | nil => have := s.buflen.isLt; simp only [absorbBytes_nil, List.length_nil]; omega
  | cons b bs ih => rw [absorbBytes_cons, ih, absorbByte_buflen, List.length_cons]; omega

@[simp] theorem absorbBytes_total (bs : List Byte) (s : State) : (absorbBytes bs s).total = s.total := by
  induction bs generalizing s with
  | nil => rfl
  | cons b bs ih => rw [absorbBytes_cons, ih, absorbByte_total]
@[simp] theorem absorbBytes_phase (bs : List Byte) (s : State) : (absorbBytes bs s).phase = s.phase := by
  induction bs generalizing s with
  | nil => rfl
  | cons b bs ih => rw [absorbBytes_cons, ih, absorbByte_phase]
@[simp] theorem absorbBytes_mode (bs : List Byte) (s : State) : (absorbBytes bs s).mode = s.mode := by
  induction bs generalizing s with
  | nil => rfl
  | cons b bs ih => rw [absorbBytes_cons, ih, absorbByte_mode]
@[simp] theorem absorbBytes_key (bs : List Byte) (s : State) : (absorbBytes bs s).key = s.key := by
  induction bs generalizing s with
  | nil => rfl
  | cons b bs ih => rw [absorbBytes_cons, ih, absorbByte_key]
@[simp] theorem absorbBytes_keyValid (bs : List Byte) (s : State) : (absorbBytes bs s).keyValid = s.keyValid := by
  induction bs generalizing s with
  | nil => rfl
  | cons b bs ih => rw [absorbBytes_cons, ih, absorbByte_keyValid]
@[simp] theorem absorbBytes_din (bs : List Byte) (s : State) : (absorbBytes bs s).din = s.din := by
  induction bs generalizing s with
  | nil => rfl
  | cons b bs ih => rw [absorbBytes_cons, ih, absorbByte_din]
@[simp] theorem absorbBytes_err (bs : List Byte) (s : State) : (absorbBytes bs s).err = s.err := by
  induction bs generalizing s with
  | nil => rfl
  | cons b bs ih => rw [absorbBytes_cons, ih, absorbByte_err]
@[simp] theorem absorbBytes_errcode (bs : List Byte) (s : State) : (absorbBytes bs s).errcode = s.errcode := by
  induction bs generalizing s with
  | nil => rfl
  | cons b bs ih => rw [absorbBytes_cons, ih, absorbByte_errcode]
@[simp] theorem absorbBytes_busy (bs : List Byte) (s : State) : (absorbBytes bs s).busy = s.busy := by
  induction bs generalizing s with
  | nil => rfl
  | cons b bs ih => rw [absorbBytes_cons, ih, absorbByte_busy]
@[simp] theorem absorbBytes_pendCmd (bs : List Byte) (s : State) : (absorbBytes bs s).pendCmd = s.pendCmd := by
  induction bs generalizing s with
  | nil => rfl
  | cons b bs ih => rw [absorbBytes_cons, ih, absorbByte_pendCmd]
@[simp] theorem absorbBytes_pendDin (bs : List Byte) (s : State) : (absorbBytes bs s).pendDin = s.pendDin := by
  induction bs generalizing s with
  | nil => rfl
  | cons b bs ih => rw [absorbBytes_cons, ih, absorbByte_pendDin]
@[simp] theorem absorbBytes_latency (bs : List Byte) (s : State) : (absorbBytes bs s).latency = s.latency := by
  induction bs generalizing s with
  | nil => rfl
  | cons b bs ih => rw [absorbBytes_cons, ih, absorbByte_latency]
@[simp] theorem absorbBytes_resetInput (bs : List Byte) (s : State) : (absorbBytes bs s).resetInput = s.resetInput := by
  induction bs generalizing s with
  | nil => rfl
  | cons b bs ih => rw [absorbBytes_cons, ih, absorbByte_resetInput]
@[simp] theorem absorbBytes_prog (bs : List Byte) (s : State) : (absorbBytes bs s).prog = s.prog := by
  induction bs generalizing s with
  | nil => rfl
  | cons b bs ih => rw [absorbBytes_cons, ih, absorbByte_prog]
@[simp] theorem absorbBytes_hostPc (bs : List Byte) (s : State) : (absorbBytes bs s).hostPc = s.hostPc := by
  induction bs generalizing s with
  | nil => rfl
  | cons b bs ih => rw [absorbBytes_cons, ih, absorbByte_hostPc]
@[simp] theorem absorbBytes_hostVars (bs : List Byte) (s : State) : (absorbBytes bs s).hostVars = s.hostVars := by
  induction bs generalizing s with
  | nil => rfl
  | cons b bs ih => rw [absorbBytes_cons, ih, absorbByte_hostVars]
@[simp] theorem absorbBytes_hostHalted (bs : List Byte) (s : State) : (absorbBytes bs s).hostHalted = s.hostHalted := by
  induction bs generalizing s with
  | nil => rfl
  | cons b bs ih => rw [absorbBytes_cons, ih, absorbByte_hostHalted]
@[simp] theorem absorbBytes_engine (bs : List Byte) (s : State) : (absorbBytes bs s).engine = s.engine := by
  induction bs generalizing s with
  | nil => rfl
  | cons b bs ih => rw [absorbBytes_cons, ih, absorbByte_engine]

@[simp] theorem appendData_h (d : List Byte) (s : State) : (appendData d s).h = (absorbBytes d s).h := countAppended_h d _
@[simp] theorem appendData_buf (d : List Byte) (s : State) : (appendData d s).buf = (absorbBytes d s).buf := countAppended_buf d _
@[simp] theorem appendData_buflen (d : List Byte) (s : State) : (appendData d s).buflen = (absorbBytes d s).buflen := countAppended_buflen d _
@[simp] theorem appendData_scratch (d : List Byte) (s : State) : (appendData d s).scratch = (absorbBytes d s).scratch := countAppended_scratch d _
@[simp] theorem appendData_draws (d : List Byte) (s : State) : (appendData d s).draws = (absorbBytes d s).draws := countAppended_draws d _
@[simp] theorem appendData_total (d : List Byte) (s : State) :
    (appendData d s).total = s.total + BitVec.ofNat 64 d.length := by
  rw [appendData, countAppended_total, absorbBytes_total]
@[simp] theorem appendData_phase (d : List Byte) (s : State) :
    (appendData d s).phase = if d.isEmpty then s.phase else .accumulating := by
  rw [appendData, countAppended_phase, absorbBytes_phase]

@[simp] theorem appendData_mode (d : List Byte) (s : State) : (appendData d s).mode = s.mode := by
  rw [appendData, countAppended_mode, absorbBytes_mode]
@[simp] theorem appendData_key (d : List Byte) (s : State) : (appendData d s).key = s.key := by
  rw [appendData, countAppended_key, absorbBytes_key]
@[simp] theorem appendData_keyValid (d : List Byte) (s : State) : (appendData d s).keyValid = s.keyValid := by
  rw [appendData, countAppended_keyValid, absorbBytes_keyValid]
@[simp] theorem appendData_din (d : List Byte) (s : State) : (appendData d s).din = s.din := by
  rw [appendData, countAppended_din, absorbBytes_din]
@[simp] theorem appendData_err (d : List Byte) (s : State) : (appendData d s).err = s.err := by
  rw [appendData, countAppended_err, absorbBytes_err]
@[simp] theorem appendData_errcode (d : List Byte) (s : State) : (appendData d s).errcode = s.errcode := by
  rw [appendData, countAppended_errcode, absorbBytes_errcode]
@[simp] theorem appendData_busy (d : List Byte) (s : State) : (appendData d s).busy = s.busy := by
  rw [appendData, countAppended_busy, absorbBytes_busy]
@[simp] theorem appendData_pendCmd (d : List Byte) (s : State) : (appendData d s).pendCmd = s.pendCmd := by
  rw [appendData, countAppended_pendCmd, absorbBytes_pendCmd]
@[simp] theorem appendData_pendDin (d : List Byte) (s : State) : (appendData d s).pendDin = s.pendDin := by
  rw [appendData, countAppended_pendDin, absorbBytes_pendDin]
@[simp] theorem appendData_latency (d : List Byte) (s : State) : (appendData d s).latency = s.latency := by
  rw [appendData, countAppended_latency, absorbBytes_latency]
@[simp] theorem appendData_resetInput (d : List Byte) (s : State) : (appendData d s).resetInput = s.resetInput := by
  rw [appendData, countAppended_resetInput, absorbBytes_resetInput]
@[simp] theorem appendData_prog (d : List Byte) (s : State) : (appendData d s).prog = s.prog := by
  rw [appendData, countAppended_prog, absorbBytes_prog]
@[simp] theorem appendData_hostPc (d : List Byte) (s : State) : (appendData d s).hostPc = s.hostPc := by
  rw [appendData, countAppended_hostPc, absorbBytes_hostPc]
@[simp] theorem appendData_hostVars (d : List Byte) (s : State) : (appendData d s).hostVars = s.hostVars := by
  rw [appendData, countAppended_hostVars, absorbBytes_hostVars]
@[simp] theorem appendData_hostHalted (d : List Byte) (s : State) : (appendData d s).hostHalted = s.hostHalted := by
  rw [appendData, countAppended_hostHalted, absorbBytes_hostHalted]
@[simp] theorem appendData_engine (d : List Byte) (s : State) : (appendData d s).engine = s.engine := by
  rw [appendData, countAppended_engine, absorbBytes_engine]

@[simp] theorem padZeros_total (n : Nat) (s : State) : (padZeros n s).total = s.total := by
  induction n generalizing s with
  | zero => rfl
  | succ n ih => unfold padZeros; split <;> simp [ih]
@[simp] theorem padZeros_phase (n : Nat) (s : State) : (padZeros n s).phase = s.phase := by
  induction n generalizing s with
  | zero => rfl
  | succ n ih => unfold padZeros; split <;> simp [ih]
@[simp] theorem padZeros_mode (n : Nat) (s : State) : (padZeros n s).mode = s.mode := by
  induction n generalizing s with
  | zero => rfl
  | succ n ih => unfold padZeros; split <;> simp [ih]
@[simp] theorem padZeros_key (n : Nat) (s : State) : (padZeros n s).key = s.key := by
  induction n generalizing s with
  | zero => rfl
  | succ n ih => unfold padZeros; split <;> simp [ih]
@[simp] theorem padZeros_keyValid (n : Nat) (s : State) : (padZeros n s).keyValid = s.keyValid := by
  induction n generalizing s with
  | zero => rfl
  | succ n ih => unfold padZeros; split <;> simp [ih]
@[simp] theorem padZeros_din (n : Nat) (s : State) : (padZeros n s).din = s.din := by
  induction n generalizing s with
  | zero => rfl
  | succ n ih => unfold padZeros; split <;> simp [ih]
@[simp] theorem padZeros_err (n : Nat) (s : State) : (padZeros n s).err = s.err := by
  induction n generalizing s with
  | zero => rfl
  | succ n ih => unfold padZeros; split <;> simp [ih]
@[simp] theorem padZeros_errcode (n : Nat) (s : State) : (padZeros n s).errcode = s.errcode := by
  induction n generalizing s with
  | zero => rfl
  | succ n ih => unfold padZeros; split <;> simp [ih]
@[simp] theorem padZeros_busy (n : Nat) (s : State) : (padZeros n s).busy = s.busy := by
  induction n generalizing s with
  | zero => rfl
  | succ n ih => unfold padZeros; split <;> simp [ih]
@[simp] theorem padZeros_pendCmd (n : Nat) (s : State) : (padZeros n s).pendCmd = s.pendCmd := by
  induction n generalizing s with
  | zero => rfl
  | succ n ih => unfold padZeros; split <;> simp [ih]
@[simp] theorem padZeros_pendDin (n : Nat) (s : State) : (padZeros n s).pendDin = s.pendDin := by
  induction n generalizing s with
  | zero => rfl
  | succ n ih => unfold padZeros; split <;> simp [ih]
@[simp] theorem padZeros_latency (n : Nat) (s : State) : (padZeros n s).latency = s.latency := by
  induction n generalizing s with
  | zero => rfl
  | succ n ih => unfold padZeros; split <;> simp [ih]
@[simp] theorem padZeros_resetInput (n : Nat) (s : State) : (padZeros n s).resetInput = s.resetInput := by
  induction n generalizing s with
  | zero => rfl
  | succ n ih => unfold padZeros; split <;> simp [ih]
@[simp] theorem padZeros_prog (n : Nat) (s : State) : (padZeros n s).prog = s.prog := by
  induction n generalizing s with
  | zero => rfl
  | succ n ih => unfold padZeros; split <;> simp [ih]
@[simp] theorem padZeros_hostPc (n : Nat) (s : State) : (padZeros n s).hostPc = s.hostPc := by
  induction n generalizing s with
  | zero => rfl
  | succ n ih => unfold padZeros; split <;> simp [ih]
@[simp] theorem padZeros_hostVars (n : Nat) (s : State) : (padZeros n s).hostVars = s.hostVars := by
  induction n generalizing s with
  | zero => rfl
  | succ n ih => unfold padZeros; split <;> simp [ih]
@[simp] theorem padZeros_hostHalted (n : Nat) (s : State) : (padZeros n s).hostHalted = s.hostHalted := by
  induction n generalizing s with
  | zero => rfl
  | succ n ih => unfold padZeros; split <;> simp [ih]
@[simp] theorem padZeros_engine (n : Nat) (s : State) : (padZeros n s).engine = s.engine := by
  induction n generalizing s with
  | zero => rfl
  | succ n ih => unfold padZeros; split <;> simp [ih]

@[simp] theorem pad_total (s : State) : (pad s).total = s.total := by
  rw [pad, absorbBytes_total, padZeros_total, absorbByte_total]
@[simp] theorem pad_phase (s : State) : (pad s).phase = s.phase := by
  rw [pad, absorbBytes_phase, padZeros_phase, absorbByte_phase]
@[simp] theorem pad_mode (s : State) : (pad s).mode = s.mode := by
  rw [pad, absorbBytes_mode, padZeros_mode, absorbByte_mode]
@[simp] theorem pad_key (s : State) : (pad s).key = s.key := by
  rw [pad, absorbBytes_key, padZeros_key, absorbByte_key]
@[simp] theorem pad_keyValid (s : State) : (pad s).keyValid = s.keyValid := by
  rw [pad, absorbBytes_keyValid, padZeros_keyValid, absorbByte_keyValid]
@[simp] theorem pad_din (s : State) : (pad s).din = s.din := by
  rw [pad, absorbBytes_din, padZeros_din, absorbByte_din]
@[simp] theorem pad_err (s : State) : (pad s).err = s.err := by
  rw [pad, absorbBytes_err, padZeros_err, absorbByte_err]
@[simp] theorem pad_errcode (s : State) : (pad s).errcode = s.errcode := by
  rw [pad, absorbBytes_errcode, padZeros_errcode, absorbByte_errcode]
@[simp] theorem pad_busy (s : State) : (pad s).busy = s.busy := by
  rw [pad, absorbBytes_busy, padZeros_busy, absorbByte_busy]
@[simp] theorem pad_pendCmd (s : State) : (pad s).pendCmd = s.pendCmd := by
  rw [pad, absorbBytes_pendCmd, padZeros_pendCmd, absorbByte_pendCmd]
@[simp] theorem pad_pendDin (s : State) : (pad s).pendDin = s.pendDin := by
  rw [pad, absorbBytes_pendDin, padZeros_pendDin, absorbByte_pendDin]
@[simp] theorem pad_latency (s : State) : (pad s).latency = s.latency := by
  rw [pad, absorbBytes_latency, padZeros_latency, absorbByte_latency]
@[simp] theorem pad_resetInput (s : State) : (pad s).resetInput = s.resetInput := by
  rw [pad, absorbBytes_resetInput, padZeros_resetInput, absorbByte_resetInput]
@[simp] theorem pad_prog (s : State) : (pad s).prog = s.prog := by
  rw [pad, absorbBytes_prog, padZeros_prog, absorbByte_prog]
@[simp] theorem pad_hostPc (s : State) : (pad s).hostPc = s.hostPc := by
  rw [pad, absorbBytes_hostPc, padZeros_hostPc, absorbByte_hostPc]
@[simp] theorem pad_hostVars (s : State) : (pad s).hostVars = s.hostVars := by
  rw [pad, absorbBytes_hostVars, padZeros_hostVars, absorbByte_hostVars]
@[simp] theorem pad_hostHalted (s : State) : (pad s).hostHalted = s.hostHalted := by
  rw [pad, absorbBytes_hostHalted, padZeros_hostHalted, absorbByte_hostHalted]
@[simp] theorem pad_engine (s : State) : (pad s).engine = s.engine := by
  rw [pad, absorbBytes_engine, padZeros_engine, absorbByte_engine]

/-- The padding loop absorbs exactly the zeros of R154, given fuel for them. -/
theorem padZeros_eq (n : Nat) (s : State) (hn : (240 - s.buflen.val) % 128 ≤ n) :
    padZeros n s = absorbBytes (List.replicate ((240 - s.buflen.val) % 128) 0x00#8) s := by
  have hlt := s.buflen.isLt
  induction n generalizing s with
  | zero =>
    have : (240 - s.buflen.val) % 128 = 0 := by omega
    rw [this]; rfl
  | succ n ih =>
    unfold padZeros
    split
    · rename_i h; rw [h]; rfl
    · rename_i h
      have hb := absorbByte_buflen 0x00#8 s
      have hstep : (240 - s.buflen.val) % 128 = (240 - (absorbByte 0x00#8 s).buflen.val) % 128 + 1 := by omega
      rw [hstep, List.replicate_succ, absorbBytes_cons]
      exact ih _ (by omega) (Fin.isLt _)

@[simp] theorem lengthBytes_length (n : Nat) : (lengthBytes n).length = 16 := rfl

end Sys2Proof.Machine
end

