-- ==== Sys2Proof/Laws/Meanings.lean ====
section
/-! SUPPORT. What the shared parts of the HMAC meanings leave unchanged, and what each meaning answers
(spec/44_hmac.md R303 to R307). -/

namespace Sys2Proof.Machine

theorem ipadKey_length (s : State) : (ipadKey s).length = 128 := paddedBytes_length _ _
theorem opadKey_length (s : State) : (opadKey s).length = 128 := paddedBytes_length _ _
theorem digestBytes_length (h : Vector Pair 8) : (digestBytes h).length = 64 := by
  simp [digestBytes, List.length_flatMap]

/-- A byte sequence that has bytes is not the empty one. -/
theorem isEmpty_of_length {d : List Byte} {n : Nat} (h : d.length = n + 1) : d.isEmpty = false := by
  cases d with
  | nil => cases h
  | cons _ _ => rfl

@[simp] theorem absorbInnerKey_din (s : State) : (absorbInnerKey s).din = s.din := by
  rw [absorbInnerKey, appendData_din, coreInit_din]
@[simp] theorem absorbInnerKey_err (s : State) : (absorbInnerKey s).err = s.err := by
  rw [absorbInnerKey, appendData_err, coreInit_err]
@[simp] theorem absorbInnerKey_errcode (s : State) : (absorbInnerKey s).errcode = s.errcode := by
  rw [absorbInnerKey, appendData_errcode, coreInit_errcode]
@[simp] theorem absorbInnerKey_busy (s : State) : (absorbInnerKey s).busy = s.busy := by
  rw [absorbInnerKey, appendData_busy, coreInit_busy]
@[simp] theorem absorbInnerKey_pendCmd (s : State) : (absorbInnerKey s).pendCmd = s.pendCmd := by
  rw [absorbInnerKey, appendData_pendCmd, coreInit_pendCmd]
@[simp] theorem absorbInnerKey_pendDin (s : State) : (absorbInnerKey s).pendDin = s.pendDin := by
  rw [absorbInnerKey, appendData_pendDin, coreInit_pendDin]
@[simp] theorem absorbInnerKey_latency (s : State) : (absorbInnerKey s).latency = s.latency := by
  rw [absorbInnerKey, appendData_latency, coreInit_latency]
@[simp] theorem absorbInnerKey_resetInput (s : State) : (absorbInnerKey s).resetInput = s.resetInput := by
  rw [absorbInnerKey, appendData_resetInput, coreInit_resetInput]
@[simp] theorem absorbInnerKey_prog (s : State) : (absorbInnerKey s).prog = s.prog := by
  rw [absorbInnerKey, appendData_prog, coreInit_prog]
@[simp] theorem absorbInnerKey_hostPc (s : State) : (absorbInnerKey s).hostPc = s.hostPc := by
  rw [absorbInnerKey, appendData_hostPc, coreInit_hostPc]
@[simp] theorem absorbInnerKey_hostVars (s : State) : (absorbInnerKey s).hostVars = s.hostVars := by
  rw [absorbInnerKey, appendData_hostVars, coreInit_hostVars]
@[simp] theorem absorbInnerKey_hostHalted (s : State) : (absorbInnerKey s).hostHalted = s.hostHalted := by
  rw [absorbInnerKey, appendData_hostHalted, coreInit_hostHalted]
@[simp] theorem absorbInnerKey_engine (s : State) : (absorbInnerKey s).engine = s.engine := by
  rw [absorbInnerKey, appendData_engine, coreInit_engine]
@[simp] theorem absorbInnerKey_key (s : State) : (absorbInnerKey s).key = s.key := by
  rw [absorbInnerKey, appendData_key, coreInit_key]
@[simp] theorem absorbInnerKey_keyValid (s : State) : (absorbInnerKey s).keyValid = s.keyValid := by
  rw [absorbInnerKey, appendData_keyValid, coreInit_keyValid]
@[simp] theorem absorbInnerKey_mode (s : State) : (absorbInnerKey s).mode = s.mode := by
  rw [absorbInnerKey, appendData_mode, coreInit_mode]
@[simp] theorem absorbInnerKey_total (s : State) : (absorbInnerKey s).total = 128#64 := by
  rw [absorbInnerKey, appendData_total, ipadKey_length, coreInit_total]; rfl
@[simp] theorem absorbInnerKey_phase (s : State) : (absorbInnerKey s).phase = .accumulating := by
  rw [absorbInnerKey, appendData_phase, isEmpty_of_length (ipadKey_length _)]; rfl
theorem absorbInnerKey_buflen (s : State) : (absorbInnerKey s).buflen.val = 0 := by
  rw [absorbInnerKey, appendData_buflen, absorbBytes_buflen, ipadKey_length, coreInit_buflen]; rfl

@[simp] theorem formKey_din (s : State) : (formKey s).din = s.din := by
  unfold formKey; split
  · rw [storeDigestKey_din, pad_din]
  · rfl
@[simp] theorem formKey_err (s : State) : (formKey s).err = s.err := by
  unfold formKey; split
  · rw [storeDigestKey_err, pad_err]
  · rfl
@[simp] theorem formKey_errcode (s : State) : (formKey s).errcode = s.errcode := by
  unfold formKey; split
  · rw [storeDigestKey_errcode, pad_errcode]
  · rfl
@[simp] theorem formKey_busy (s : State) : (formKey s).busy = s.busy := by
  unfold formKey; split
  · rw [storeDigestKey_busy, pad_busy]
  · rfl
@[simp] theorem formKey_pendCmd (s : State) : (formKey s).pendCmd = s.pendCmd := by
  unfold formKey; split
  · rw [storeDigestKey_pendCmd, pad_pendCmd]
  · rfl
@[simp] theorem formKey_pendDin (s : State) : (formKey s).pendDin = s.pendDin := by
  unfold formKey; split
  · rw [storeDigestKey_pendDin, pad_pendDin]
  · rfl
@[simp] theorem formKey_latency (s : State) : (formKey s).latency = s.latency := by
  unfold formKey; split
  · rw [storeDigestKey_latency, pad_latency]
  · rfl
@[simp] theorem formKey_resetInput (s : State) : (formKey s).resetInput = s.resetInput := by
  unfold formKey; split
  · rw [storeDigestKey_resetInput, pad_resetInput]
  · rfl
@[simp] theorem formKey_prog (s : State) : (formKey s).prog = s.prog := by
  unfold formKey; split
  · rw [storeDigestKey_prog, pad_prog]
  · rfl
@[simp] theorem formKey_hostPc (s : State) : (formKey s).hostPc = s.hostPc := by
  unfold formKey; split
  · rw [storeDigestKey_hostPc, pad_hostPc]
  · rfl
@[simp] theorem formKey_hostVars (s : State) : (formKey s).hostVars = s.hostVars := by
  unfold formKey; split
  · rw [storeDigestKey_hostVars, pad_hostVars]
  · rfl
@[simp] theorem formKey_hostHalted (s : State) : (formKey s).hostHalted = s.hostHalted := by
  unfold formKey; split
  · rw [storeDigestKey_hostHalted, pad_hostHalted]
  · rfl
@[simp] theorem formKey_engine (s : State) : (formKey s).engine = s.engine := by
  unfold formKey; split
  · rw [storeDigestKey_engine, pad_engine]
  · rfl
@[simp] theorem formKey_total (s : State) : (formKey s).total = s.total := by
  unfold formKey; split
  · rw [storeDigestKey_total, pad_total]
  · rfl
@[simp] theorem formKey_phase (s : State) : (formKey s).phase = s.phase := by
  unfold formKey; split
  · rw [storeDigestKey_phase, pad_phase]
  · rfl
@[simp] theorem formKey_mode (s : State) : (formKey s).mode = s.mode := by
  unfold formKey; split
  · rw [storeDigestKey_mode, pad_mode]
  · rfl
@[simp] theorem formKey_keyValid (s : State) : (formKey s).keyValid = s.keyValid := by
  unfold formKey; split
  · rw [storeDigestKey_keyValid, pad_keyValid]
  · rfl

@[simp] theorem hmacFinal_din (d : List Byte) (s : State) : (hmacFinal d s).din = s.din := by
  simp only [hmacFinal, markFinalized_din, pad_din, appendData_din, coreInit_din]
@[simp] theorem hmacFinal_err (d : List Byte) (s : State) : (hmacFinal d s).err = s.err := by
  simp only [hmacFinal, markFinalized_err, pad_err, appendData_err, coreInit_err]
@[simp] theorem hmacFinal_errcode (d : List Byte) (s : State) : (hmacFinal d s).errcode = s.errcode := by
  simp only [hmacFinal, markFinalized_errcode, pad_errcode, appendData_errcode, coreInit_errcode]
@[simp] theorem hmacFinal_busy (d : List Byte) (s : State) : (hmacFinal d s).busy = s.busy := by
  simp only [hmacFinal, markFinalized_busy, pad_busy, appendData_busy, coreInit_busy]
@[simp] theorem hmacFinal_pendCmd (d : List Byte) (s : State) : (hmacFinal d s).pendCmd = s.pendCmd := by
  simp only [hmacFinal, markFinalized_pendCmd, pad_pendCmd, appendData_pendCmd, coreInit_pendCmd]
@[simp] theorem hmacFinal_pendDin (d : List Byte) (s : State) : (hmacFinal d s).pendDin = s.pendDin := by
  simp only [hmacFinal, markFinalized_pendDin, pad_pendDin, appendData_pendDin, coreInit_pendDin]
@[simp] theorem hmacFinal_latency (d : List Byte) (s : State) : (hmacFinal d s).latency = s.latency := by
  simp only [hmacFinal, markFinalized_latency, pad_latency, appendData_latency, coreInit_latency]
@[simp] theorem hmacFinal_resetInput (d : List Byte) (s : State) : (hmacFinal d s).resetInput = s.resetInput := by
  simp only [hmacFinal, markFinalized_resetInput, pad_resetInput, appendData_resetInput, coreInit_resetInput]
@[simp] theorem hmacFinal_prog (d : List Byte) (s : State) : (hmacFinal d s).prog = s.prog := by
  simp only [hmacFinal, markFinalized_prog, pad_prog, appendData_prog, coreInit_prog]
@[simp] theorem hmacFinal_hostPc (d : List Byte) (s : State) : (hmacFinal d s).hostPc = s.hostPc := by
  simp only [hmacFinal, markFinalized_hostPc, pad_hostPc, appendData_hostPc, coreInit_hostPc]
@[simp] theorem hmacFinal_hostVars (d : List Byte) (s : State) : (hmacFinal d s).hostVars = s.hostVars := by
  simp only [hmacFinal, markFinalized_hostVars, pad_hostVars, appendData_hostVars, coreInit_hostVars]
@[simp] theorem hmacFinal_hostHalted (d : List Byte) (s : State) : (hmacFinal d s).hostHalted = s.hostHalted := by
  simp only [hmacFinal, markFinalized_hostHalted, pad_hostHalted, appendData_hostHalted, coreInit_hostHalted]
@[simp] theorem hmacFinal_engine (d : List Byte) (s : State) : (hmacFinal d s).engine = s.engine := by
  simp only [hmacFinal, markFinalized_engine, pad_engine, appendData_engine, coreInit_engine]
@[simp] theorem hmacFinal_mode (d : List Byte) (s : State) : (hmacFinal d s).mode = s.mode := by
  simp only [hmacFinal, markFinalized_mode, pad_mode, appendData_mode, coreInit_mode]
@[simp] theorem hmacFinal_key (d : List Byte) (s : State) : (hmacFinal d s).key = s.key := by
  simp only [hmacFinal, markFinalized_key, pad_key, appendData_key, coreInit_key]
@[simp] theorem hmacFinal_keyValid (d : List Byte) (s : State) : (hmacFinal d s).keyValid = s.keyValid := by
  simp only [hmacFinal, markFinalized_keyValid, pad_keyValid, appendData_keyValid, coreInit_keyValid]
@[simp] theorem hmacFinal_phase (d : List Byte) (s : State) : (hmacFinal d s).phase = .finalized := by
  rw [hmacFinal, markFinalized_phase]
@[simp] theorem hmacFinal_total (d : List Byte) (s : State) : (hmacFinal d s).total = 192#64 := by
  simp only [hmacFinal, markFinalized_total, pad_total, appendData_total, coreInit_total, opadKey_length, digestBytes_length]
  rfl

/-! What each meaning answers. -/

theorem exec_init_next {s t : State} (h : exec .init s = .next t) : t = setMode .hash (coreInit s) := by
  simp only [exec, execInit, Host.Outcome.next.injEq] at h
  exact h.symm
theorem exec_update_next {nb : BitVec 3} {s t : State} (h : exec (.update nb) s = .next t) :
    t = appendData (dataBytes s.pendDin nb) s := by
  simp only [exec, execUpdate, Host.Outcome.next.injEq] at h
  exact h.symm
theorem exec_final_next {nb : BitVec 3} {s t : State} (h : exec (.final nb) s = .next t) :
    (s.mode = .hash ∧ t = markFinalized (pad (appendData (dataBytes s.pendDin nb) s))) ∨
    (s.mode ≠ .hash ∧ t = hmacFinal (dataBytes s.pendDin nb) s) := by
  simp only [exec, execFinal] at h
  split at h
  · exact .inl ⟨‹_›, (Host.Outcome.next.inj h).symm⟩
  · exact .inr ⟨‹_›, (Host.Outcome.next.inj h).symm⟩
theorem exec_keyBegin_next {s t : State} (h : exec .keyBegin s = .next t) :
    t = setMode .key (clearKey (coreInit s)) := by
  simp only [exec, execKeyBegin, Host.Outcome.next.injEq] at h
  exact h.symm
theorem exec_keyUpdate_next {nb : BitVec 3} {s t : State} (h : exec (.keyUpdate nb) s = .next t) :
    t = appendData (dataBytes s.pendDin nb) (storeKeyData (dataBytes s.pendDin nb) s) := by
  simp only [exec, execKeyUpdate, Host.Outcome.next.injEq] at h
  exact h.symm
theorem exec_hmacStart_next {s t : State} (h : exec .hmacStart s = .next t) :
    t = absorbInnerKey (setMode .hmac (validateKey (formKey s))) := by
  simp only [exec, execHmacStart, Host.Outcome.next.injEq] at h
  exact h.symm
theorem exec_hmacReset_next {s t : State} (h : exec .hmacReset s = .next t) :
    t = setMode .hmac (absorbInnerKey s) := by
  simp only [exec, execHmacReset, Host.Outcome.next.injEq] at h
  exact h.symm

end Sys2Proof.Machine
end

