-- ==== Sys2Proof/Laws/Ops.lean ====
section
/-! SUPPORT. What each shared operation of the register window, of acceptance and of the host can do, said
once; callers cite these instead of unfolding. -/

namespace Sys2Proof.Machine

/-- A `CMD` write is accepted or records one error (spec/60_exceptions.md R352). -/
theorem onCmdWrite_cases (w : Word) (s : State) :
    (s.busy = false ∧ (∃ i, decode w = .ok i ∧ acceptError i s = none) ∧ onCmdWrite w s = latchCommand w s) ∨
    (∃ e, onCmdWrite w s = raiseError e s) := by
  unfold onCmdWrite
  cases hb : s.busy with
  | true => exact .inr ⟨.busy, by simp⟩
  | false =>
    cases hd : decode w with
    | error e => exact .inr ⟨e, by simp⟩
    | ok i =>
      cases ha : acceptError i s with
      | some e => exact .inr ⟨e, by simp [ha]⟩
      | none => exact .inl ⟨rfl, ⟨i, rfl, ha⟩, by simp [ha]⟩

/-- A write acts as one of `CMD`, `DIN`, `ERRCODE`, or not at all (spec/20_memory.md R74). -/
theorem regWrite_cases (off : Nat) (v : Word) (s : State) :
    (off = 0x008 ∧ regWrite off v s = onCmdWrite v s) ∨ (off = 0x00C ∧ regWrite off v s = setDin v s) ∨
    (off = 0x010 ∧ regWrite off v s = clearError s) ∨ regWrite off v s = s := by
  unfold regWrite
  split
  · exact .inl ⟨‹_›, rfl⟩
  · split
    · exact .inr (.inl ⟨‹_›, rfl⟩)
    · split
      · exact .inr (.inr (.inl ⟨‹_›, rfl⟩))
      · exact .inr (.inr (.inr rfl))

theorem busyOr_state (v : Word) (s : State) :
    (busyOr v s).2 = s ∨ (s.busy = true ∧ (busyOr v s).2 = countDraw s) := by
  unfold busyOr; cases hb : s.busy <;> simp

/-- A read leaves the state as it is, or counts one draw while `BUSY = 1` (R74, R79). -/
theorem regRead_state (off : Nat) (s : State) :
    (regRead off s).2 = s ∨ (s.busy = true ∧ (regRead off s).2 = countDraw s) := by
  unfold regRead
  repeat' split
  all_goals first | exact .inl rfl | exact busyOr_state _ s

/-- An access goes on only when it is 32 bits wide, aligned and in the window (R70, R72). -/
theorem admitAccess_next {off bits : Nat} {k t : State} (h : admitAccess off bits k = .next t) :
    t = k ∧ off < regWindow ∧ bits = 32 ∧ off % 4 = 0 := by
  unfold admitAccess at h
  split at h
  · cases h
  · split at h
    · cases h
    · cases h; exact ⟨rfl, by omega, by omega, by omega⟩

theorem branchTo_next {l : Nat} {s t : State} (h : branchTo l s = .next t) : ∃ k, t = { s with hostPc := k } := by
  unfold branchTo at h
  split at h
  · cases h; exact ⟨_, rfl⟩
  · cases h

/-- What one statement of the host can do to the state. -/
inductive HostEffect (s : State) : State → Prop where
  /-- the register write of the current line, and on to the next -/
  | wrote (off : Nat) (v : Word) (line : currentStmt s = some (.write off 32 v)) :
      HostEffect s (hostNext (regWrite off v s))
  /-- a register read, and on to the next line -/
  | read (off : Nat) (dst : Option Nat) :
      HostEffect s (hostNext (assignRead dst (regRead off s).1 (regRead off s).2))
  /-- the host moves in its program, or stays -/
  | moved (k : Nat) : HostEffect s { s with hostPc := k }
  /-- `STOP` -/
  | stopped : HostEffect s { s with hostHalted := true }

theorem hostExec_next {st : HostStmt} {s t : State} (line : currentStmt s = some st)
    (h : hostExec st s = .next t) : HostEffect s t := by
  cases st with
  | write off bits v => obtain ⟨rfl, -, rfl, -⟩ := admitAccess_next h; exact .wrote off v line
  | read off bits dst => obtain ⟨rfl, -⟩ := admitAccess_next h; exact .read off dst
  | bnz x mask l =>
    simp only [hostExec] at h
    split at h
    · obtain ⟨k, rfl⟩ := branchTo_next h; exact .moved k
    · cases h; exact .moved _
  | bz x mask l =>
    simp only [hostExec] at h
    split at h
    · cases h; exact .moved _
    · obtain ⟨k, rfl⟩ := branchTo_next h; exact .moved k
  | goto l => obtain ⟨k, rfl⟩ := branchTo_next h; exact .moved k
  | stop => cases h; exact .stopped

/-- What one host step can do (spec/30_encoding.md R108). -/
theorem hostStep_next {s t : State} (h : hostStep s = .next t) : HostEffect s t := by
  unfold hostStep at h
  split at h
  · exact hostExec_next ‹_› h
  · cases h
    split
    · exact .moved _
    · exact .moved s.hostPc

/-- What losing an access can do: the engine's registers stay as they are, and so does the engine's number. -/
theorem loseAccess_cases (s : State) :
    loseAccess s = s ∨ loseAccess s = hostNext s ∨
    ∃ dst, loseAccess s = hostNext (assignRead dst (Config.freeRead s.engine s.draws) (countDraw s)) := by
  unfold loseAccess
  split
  · exact .inr (.inl rfl)
  · exact .inr (.inr ⟨_, rfl⟩)
  all_goals exact .inl rfl

@[simp] theorem loseAccess_engine (s : State) : (loseAccess s).engine = s.engine := by
  obtain h | h | ⟨dst, h⟩ := loseAccess_cases s <;> simp [h]

/-- Every meaning answers a next state: no accepted command stops (spec/60_exceptions.md R356). -/
theorem exec_next (i : Instr) (s : State) : ∃ t, exec i s = .next t := by
  cases i with
  | init => exact ⟨_, rfl⟩
  | update nb => exact ⟨_, rfl⟩
  | final nb => simp only [exec, execFinal]; split <;> exact ⟨_, rfl⟩
  | keyBegin => exact ⟨_, rfl⟩
  | keyUpdate nb => exact ⟨_, rfl⟩
  | hmacStart => exact ⟨_, rfl⟩
  | hmacReset => exact ⟨_, rfl⟩

/-- What the engine's step can do (R354). -/
theorem engineStep_next {s t : State} (h : engineStep s = .next t) :
    ∃ i u, decode s.pendCmd = .ok i ∧ exec i s = .next u ∧ t = finishCommand u := by
  unfold engineStep fetchWord at h
  split at h
  · cases h
  · rename_i i hd
    obtain ⟨u, hu⟩ := exec_next i s
    rw [hu] at h
    cases h
    exact ⟨i, u, hd, hu, rfl⟩

/-- What a step without reset can do. -/
theorem advance_next {s t : State} (h : advance s = .next t) :
    (s.busy = true ∧ s.latency = 0 ∧ engineStep s = .next t) ∨
    (s.busy = true ∧ s.latency ≠ 0 ∧ HostEffect (countHostStep s) t) ∨
    (s.busy = false ∧ HostEffect s t) := by
  unfold advance at h
  split at h
  · split at h
    · exact .inl ⟨‹_›, ‹_›, h⟩
    · exact .inr (.inl ⟨‹_›, ‹_›, hostStep_next h⟩)
  · exact .inr (.inr ⟨by simpa using ‹¬ s.busy = true›, hostStep_next h⟩)

/-! One step, by the next sample of the reset input. -/

theorem step_nil {s : State} (h : s.resetInput = []) : step s = advance s := by simp only [step, h]
theorem step_quiet {s : State} {rest : List ResetSample} (h : s.resetInput = .quiet :: rest) :
    step s = advance (consumeSample s) := by simp only [step, h]
theorem step_pulse {s : State} {rest : List ResetSample} (h : s.resetInput = .pulse :: rest) :
    step s = .next (resetEngine (consumeSample s)) := by simp only [step, h]
theorem step_pulseOnAccess {s : State} {rest : List ResetSample} (h : s.resetInput = .pulseOnAccess :: rest) :
    step s = .next (resetEngine (loseAccess (consumeSample s))) := by simp only [step, h]

/-- What one step can do: a reset, or a step without reset (R360, R400). -/
theorem step_next {s t : State} (h : step s = .next t) :
    (s.resetInput = [] ∧ advance s = .next t) ∨
    (s.resetInput.head? = some .quiet ∧ advance (consumeSample s) = .next t) ∨
    (s.resetInput.head? = some .pulse ∧ t = resetEngine (consumeSample s)) ∨
    (s.resetInput.head? = some .pulseOnAccess ∧ t = resetEngine (loseAccess (consumeSample s))) := by
  unfold step at h
  split at h
  · exact .inl ⟨‹_›, h⟩
  · rename_i hr; exact .inr (.inl ⟨by rw [hr]; rfl, h⟩)
  · rename_i hr; cases h; exact .inr (.inr (.inl ⟨by rw [hr]; rfl, rfl⟩))
  · rename_i hr; cases h; exact .inr (.inr (.inr ⟨by rw [hr]; rfl, rfl⟩))

/-! The engine's number never changes. -/

@[simp] theorem onCmdWrite_engine (w : Word) (s : State) : (onCmdWrite w s).engine = s.engine := by
  obtain ⟨-, -, h⟩ | ⟨e, h⟩ := onCmdWrite_cases w s <;> simp [h]

@[simp] theorem regWrite_engine (off : Nat) (v : Word) (s : State) : (regWrite off v s).engine = s.engine := by
  obtain ⟨-, h⟩ | ⟨-, h⟩ | ⟨-, h⟩ | h := regWrite_cases off v s <;> simp [h]

@[simp] theorem regRead_engine (off : Nat) (s : State) : (regRead off s).2.engine = s.engine := by
  obtain h | ⟨-, h⟩ := regRead_state off s <;> simp [h]

theorem HostEffect.engine_eq {s t : State} (h : HostEffect s t) : t.engine = s.engine := by
  cases h with
  | wrote off v line => simp
  | read off dst => simp
  | moved k => rfl
  | stopped => rfl

theorem exec_engine {i : Instr} {s t : State} (h : exec i s = .next t) : t.engine = s.engine := by
  cases i with
  | init => rw [exec_init_next h]; simp
  | update nb => rw [exec_update_next h]; simp
  | final nb => obtain ⟨-, rfl⟩ | ⟨-, rfl⟩ := exec_final_next h <;> simp
  | keyBegin => rw [exec_keyBegin_next h]; simp
  | keyUpdate nb => rw [exec_keyUpdate_next h]; simp
  | hmacStart => rw [exec_hmacStart_next h]; simp
  | hmacReset => rw [exec_hmacReset_next h]; simp

theorem advance_engine {s t : State} (h : advance s = .next t) : t.engine = s.engine := by
  obtain ⟨-, -, h⟩ | ⟨-, -, h⟩ | ⟨-, h⟩ := advance_next h
  · obtain ⟨i, u, -, hu, rfl⟩ := engineStep_next h
    rw [finishCommand_engine, exec_engine hu]
  · rw [h.engine_eq, countHostStep_engine]
  · exact h.engine_eq

theorem step_engine {s t : State} (h : step s = .next t) : t.engine = s.engine := by
  obtain ⟨-, h⟩ | ⟨-, h⟩ | ⟨-, rfl⟩ | ⟨-, rfl⟩ := step_next h
  · exact advance_engine h
  · rw [advance_engine h, consumeSample_engine]
  · simp
  · simp

/-- A run of `k + 1` steps: one, and `k` more where it goes on. -/
theorem core_run_succ (k : Nat) (s : State) :
    Sys2Proof.core.run (k + 1) s =
      match step s with
      | .next t => Sys2Proof.core.run k t
      | .fault r => .fault r
      | .refused r => .refused r := by
  simp only [Host.Core.run]
  rw [show Sys2Proof.core.step s = step s from rfl]
  cases step s <;> rfl

end Sys2Proof.Machine
end

