-- ==== Sys2Proof/Laws/PerInstr.lean ====
section
/-! SUPPORT. The fields of every command's word (spec/30_encoding.md R100), one lemma for each
constructor. -/

namespace Sys2Proof.Laws.EncodeFields

/-- The word of a command shows its opcode, its `NB`, and a zero `RSV`. -/
def Statement (i : Instr) : Prop :=
  opField (encode i) = opcodeOf i ∧ nbField (encode i) = nbOf i ∧ rsvField (encode i) = 0#21

theorem init : Statement .init := by unfold Statement; decide
theorem update (nb : BitVec 3) : Statement (.update nb) := by unfold Statement; revert nb; decide
theorem final (nb : BitVec 3) : Statement (.final nb) := by unfold Statement; revert nb; decide
theorem keyBegin : Statement .keyBegin := by unfold Statement; decide
theorem keyUpdate (nb : BitVec 3) : Statement (.keyUpdate nb) := by unfold Statement; revert nb; decide
theorem hmacStart : Statement .hmacStart := by unfold Statement; decide
theorem hmacReset : Statement .hmacReset := by unfold Statement; decide

end Sys2Proof.Laws.EncodeFields
end

