-- ==== Sys2Proof/Tests/Slice0.lean ====
section
/-! SUPPORT. Tests on small states, with the source of every expected value; then, for every statement that
has hypotheses, a witness that meets them. -/

namespace Sys2Proof.Tests

open Sys2Proof.Machine

set_option maxRecDepth 100000

/-! ### Helpers -/

/-- A check of the next state. -/
def nextSat (o : Host.Outcome State Fault Refusal) (f : State → Bool) : Bool :=
  match o with
  | .next s => f s
  | .fault _ => false
  | .refused _ => false

/-- The command in flight on a state, with `PEND_DIN`, executed by the next step. -/
def runWord (s : State) (w : Nat) (din : Word) : Host.Outcome State Fault Refusal :=
  step (({ s with pendDin := din } : State).withFetchWord 32 w)

/-- A state with 127 zero bytes pending. -/
def nearlyFull : State :=
  { State.reset with buflen := 127, total := 127#64, phase := .accumulating }

/-- `MODE = KEY` after the key bytes "Jefe" (spec/95_test_vectors.md P3). -/
def jefe : State :=
  { State.reset with
    mode := .key, phase := .accumulating, total := 4#64, buflen := 4
    buf := zeroStore.set 0 0x4a656665#32, key := zeroStore.set 0 0x4a656665#32 }

/-- A host program of one statement. -/
def oneStmt (st : HostStmt) : State := { State.reset with prog := [⟨none, some st⟩] }

/-- A command in flight, with a latency. -/
def inFlight (i : Instr) (latency : Nat) : State :=
  { State.reset with busy := true, pendCmd := encode i, latency := latency }

/-- The block of "abc" (spec/43_compression.md R261). -/
def abcBlock : Vector Word 32 := (zeroStore.set 0 0x61626380#32).set 31 0x00000018#32

/-! ### Well-formedness -/

theorem test_update_nb5_ill_formed : (Instr.update 5#3).wf = false := by decide
theorem test_final_nb7_ill_formed : (Instr.final 7#3).wf = false := by decide
theorem test_keyUpdate_nb6_ill_formed : (Instr.keyUpdate 6#3).wf = false := by decide

/-! ### Decoding: words of spec/30_encoding.md R103 and spec/95_test_vectors.md 2.1 -/

theorem test_decode_init : decode 0b00000000000000000000000000000001#32 = .ok .init := by decide
theorem test_decode_update3 : decode 0b00000000000000000000001100000010#32 = .ok (.update 3#3) := by decide
theorem test_decode_final4 : decode 0b00000000000000000000010000000011#32 = .ok (.final 4#3) := by decide
theorem test_decode_keyBegin : decode 0b00000000000000000000000000010000#32 = .ok .keyBegin := by decide
theorem test_decode_keyUpdate4 : decode 0b00000000000000000000010000010001#32 = .ok (.keyUpdate 4#3) := by decide
theorem test_decode_hmacStart : decode 0b00000000000000000000000000010010#32 = .ok .hmacStart := by decide
theorem test_decode_hmacReset : decode 0b00000000000000000000000000010011#32 = .ok .hmacReset := by decide
/-- V-D5, V-D9, V-D10, V-D14: the order of the tests. -/
theorem test_decode_rejects :
    decode 0x80000000#32 = .error .illegalOp ∧ decode 0x80000702#32 = .error .reserved ∧
    decode 0x00000502#32 = .error .badNb ∧ decode 0x00000412#32 = .error .badNb := by decide
theorem test_decodeTableWord : decodeTableWord 32 0x302 = some (.update 3#3) ∧ decodeTableWord 32 0x14 = none := by decide
/-- R108. -/
theorem test_disassemble : disassemble 0x00000402#32 = "CMD UPDATE nb=4" ∧ disassemble 0x00000010#32 = "CMD KEY_BEGIN" := by
  decide

/-- spec/95_test_vectors.md P1, two lines; R109, `PUSH` of five bytes. -/
theorem test_assemble :
    assemble "w1: READ STATUS -> s ; R 0x004\n BNZ s, 0x1, w1".toList =
      some [⟨some (nameCode ['w', '1']), some (.read 4 32 (some 0))⟩, ⟨none, some (.bnz 0 1#32 (nameCode ['w', '1']))⟩] ∧
    assemble "PUSH \"abcde\"".toList =
      some [⟨none, some (.write 0xC 32 0x61626364#32)⟩, ⟨none, some (.write 8 32 0x402#32)⟩,
            ⟨some 1, some (.read 4 32 (some 0))⟩, ⟨none, some (.bnz 0 1#32 1)⟩,
            ⟨none, some (.write 0xC 32 0x65000000#32)⟩, ⟨none, some (.write 8 32 0x102#32)⟩,
            ⟨some 2, some (.read 4 32 (some 0))⟩, ⟨none, some (.bnz 0 1#32 2)⟩] := by decide

/-! ### Pair arithmetic and compression -/

/-- V-A2, V-A6, V-A9. -/
theorem test_add64 :
    add64 ⟨0#32, 0xffffffff#32⟩ ⟨0#32, 1#32⟩ = ⟨1#32, 0#32⟩ ∧
    add64 ⟨1#32, 0xffffffff#32⟩ ⟨1#32, 0xffffffff#32⟩ = ⟨3#32, 0xfffffffe#32⟩ ∧
    sum64 (List.replicate 5 ⟨0xffffffff#32, 0xffffffff#32⟩) = ⟨0xffffffff#32, 0xfffffffb#32⟩ := by decide

/-- R206, R207, R208, R210 examples. -/
theorem test_rotations :
    rotr64 ⟨0x01234567#32, 0x89abcdef#32⟩ 1 = ⟨0x8091a2b3#32, 0xc4d5e6f7#32⟩ ∧
    rotr64 ⟨0x01234567#32, 0x89abcdef#32⟩ 32 = ⟨0x89abcdef#32, 0x01234567#32⟩ ∧
    rotr64 ⟨0x01234567#32, 0x89abcdef#32⟩ 61 = ⟨0x091a2b3c#32, 0x4d5e6f78#32⟩ ∧
    shr64 ⟨0x01234567#32, 0x89abcdef#32⟩ 7 = ⟨0x0002468a#32, 0xcf13579b#32⟩ := by decide

/-- R211 to R214 examples. -/
theorem test_sigmas :
    smallSigma0 ⟨0x01234567#32, 0x89abcdef#32⟩ = ⟨0x6f92c77c#32, 0x6c4f1aa1#32⟩ ∧
    smallSigma1 ⟨0x01234567#32, 0x89abcdef#32⟩ = ⟨0x70a3460d#32, 0xbbd4317a#32⟩ ∧
    bigSigma0 ⟨0x01234567#32, 0x89abcdef#32⟩ = ⟨0xb7c57a10#32, 0x0c7ec1ab#32⟩ ∧
    bigSigma1 ⟨0x01234567#32, 0x89abcdef#32⟩ = ⟨0x77031123#32, 0x33475567#32⟩ := by decide

/-- R215, R216 examples. -/
theorem test_ch_maj :
    ch ⟨0x01234567#32, 0x89abcdef#32⟩ ⟨0xfedcba98#32, 0x76543210#32⟩ ⟨0x0f0f0f0f#32, 0xf0f0f0f0#32⟩ =
      ⟨0x0e0c0a08#32, 0x70503010#32⟩ ∧
    maj ⟨0x01234567#32, 0x89abcdef#32⟩ ⟨0xfedcba98#32, 0x76543210#32⟩ ⟨0x0f0f0f0f#32, 0xf0f0f0f0#32⟩ =
      ⟨0x0f0f0f0f#32, 0xf0f0f0f0#32⟩ := by decide

/-- R261: `W[20]`, `W[79]`. -/
theorem test_schedule_abc :
    (schedule abcBlock)[20]? = some ⟨0x549ef626#32, 0x39858996#32⟩ ∧
    (schedule abcBlock)[79]? = some ⟨0x92aeeed1#32, 0xa7bcf7d2#32⟩ := by decide

/-- R261: `a` and `e` after round 1. -/
theorem test_rounds_abc :
    (rounds (workInit iv) (roundConstants.take 2) (schedule abcBlock)).a = ⟨0x1320f8c9#32, 0xfb872cc0#32⟩ ∧
    (rounds (workInit iv) (roundConstants.take 2) (schedule abcBlock)).e = ⟨0xc3d4ebfd#32, 0x48650ffa#32⟩ := by decide

/-- R261: the first and last half of `Hout`. -/
theorem test_compress_abc :
    (compress iv abcBlock)[0] = ⟨0xddaf35a1#32, 0x93617aba#32⟩ ∧
    (compress iv abcBlock)[7] = ⟨0x2a9ac94f#32, 0xa54ca49f#32⟩ := by decide

/-! ### The commands, one step each -/

/-- `INIT` keeps the key (V-H8). -/
theorem test_init_keeps_key :
    nextSat (runWord { jefe with mode := .hmac, keyValid := true } 0x01 0) (fun s =>
      statusWord s = 0x40#32 ∧ s.total = 0#64 ∧ s.key[0] = 0x4a656665#32 ∧ s.h[0].hi = 0x6a09e667#32) = true := by decide

/-- `UPDATE nb=3` from reset (R156 example). -/
theorem test_update_abc :
    nextSat (runWord State.reset 0x302 0x61626300#32) (fun s =>
      s.buf[0] = 0x61626300#32 ∧ s.buflen.val = 3 ∧ s.total = 3#64 ∧ statusWord s = 0x04#32) = true := by decide

/-- `UPDATE nb=2` at 127 zero bytes: 0xab completes the block, 0xcd starts the next (V-B9). -/
theorem test_update_across_block :
    nextSat (runWord nearlyFull 0x202 0xabcdef00#32) (fun s =>
      s.buf[0] = 0xcd000000#32 ∧ s.buflen.val = 1 ∧ s.total = 129#64 ∧
      s.h[0] = ⟨0x56d1d93a#32, 0x304fdeef#32⟩) = true := by decide

/-- `FINAL` from reset: SHA-512 of the empty message (spec/95_test_vectors.md 1.3). -/
theorem test_final_empty :
    nextSat (runWord State.reset 0x03 0) (fun s =>
      statusWord s = 0x08#32 ∧ s.h[0] = ⟨0xcf83e135#32, 0x7eefb8bd#32⟩ ∧ s.h[7] = ⟨0xa538327a#32, 0xf927da3e#32⟩ ∧
      s.buflen.val = 0) = true := by decide

/-- `FINAL` of 127 zero bytes takes two blocks (spec/95_test_vectors.md 1.6). -/
theorem test_final_two_blocks :
    nextSat (runWord nearlyFull 0x03 0) (fun s => s.h[0] = ⟨0x876fee26#32, 0xa8dc66d6#32⟩ ∧ s.total = 127#64) = true := by
  decide

/-- `KEY_BEGIN` from reset (R301 example). -/
theorem test_keyBegin : nextSat (runWord jefe 0x10 0) (fun s => statusWord s = 0x10#32 ∧ s.key[0] = 0#32) = true := by
  decide

/-- `KEY_UPDATE nb=4` (R302 example). -/
theorem test_keyUpdate_jefe :
    nextSat (runWord { State.reset with mode := .key } 0x411 0x4a656665#32) (fun s =>
      s.key[0] = 0x4a656665#32 ∧ s.buf[0] = 0x4a656665#32 ∧ s.total = 4#64 ∧ statusWord s = 0x14#32) = true := by decide

/-- Key bytes at positions 128 and beyond do not enter `KEY` (V-H6). -/
theorem test_keyUpdate_past_128 :
    nextSat (runWord { nearlyFull with mode := .key } 0x211 0xabcd0000#32) (fun s =>
      s.key[31] = 0x000000ab#32 ∧ s.key[0] = 0#32 ∧ s.total = 129#64) = true := by decide

/-- `HMAC_START` with the key "Jefe" (R303 example). -/
theorem test_hmacStart_jefe :
    nextSat (runWord jefe 0x12 0) (fun s =>
      statusWord s = 0x64#32 ∧ s.total = 128#64 ∧ s.h[0] = ⟨0xd54c8054#32, 0xe3fafc6e#32⟩) = true := by decide

/-- `HMAC_RESET` under the key "Jefe" (V-H7). -/
theorem test_hmacReset_jefe :
    nextSat (runWord { jefe with mode := .hash, keyValid := true } 0x13 0) (fun s =>
      statusWord s = 0x64#32 ∧ s.total = 128#64 ∧ s.h[0] = ⟨0xd54c8054#32, 0xe3fafc6e#32⟩) = true := by decide

/-- `FINAL` in `MODE = HMAC`, empty key and empty message (V-H1): the inner key block is 128 bytes of 0x36. -/
theorem test_final_hmac_empty :
    nextSat (exec .hmacStart { State.reset with mode := .key }) (fun s =>
      nextSat (runWord s 0x03 0) (fun t =>
        statusWord t = 0x68#32 ∧ t.h[0] = ⟨0xb936cee8#32, 0x6c9f87aa#32⟩ ∧ t.total = 192#64)) = true := by decide

/-! ### Acceptance, the window, the host, reset -/

/-- V-D16, V-D17, V-D18: from reset. -/
theorem test_accept_rejections :
    (onCmdWrite 0x11#32 State.reset).errcode = 6#8 ∧ (onCmdWrite 0x12#32 State.reset).errcode = 6#8 ∧
    (onCmdWrite 0x13#32 State.reset).errcode = 7#8 ∧ statusWord (onCmdWrite 0x13#32 State.reset) = 0x02#32 := by decide

/-- V-E10, V-E11: the length check. -/
theorem test_accept_length :
    (onCmdWrite 0x202#32 { State.reset with total := BitVec.ofNat 64 (2 ^ 64 - 2) }).errcode = 8#8 ∧
    (onCmdWrite 0x102#32 { State.reset with total := BitVec.ofNat 64 (2 ^ 64 - 2) }).busy = true := by decide

/-- V-E15: `E_BUSY` before decoding. -/
theorem test_busy_rejects : (onCmdWrite 0#32 (inFlight .init 5)).errcode = 4#8 := by decide

/-- V-R1, V-R2. -/
theorem test_reads_at_reset :
    (regRead 0x000 State.reset).1 = 0x53483531#32 ∧ (regRead 0x040 State.reset).1 = 0x6a09e667#32 ∧
    (regRead 0x07C State.reset).1 = 0x137e2179#32 ∧ (regRead 0x0FC State.reset).1 = 0#32 := by decide

/-- V-R3: a `WRITE DIN` of the host. -/
theorem test_host_writes_din :
    nextSat (step (oneStmt (.write 0x00C 32 0xdeadbeef#32))) (fun s =>
      (regRead 0x00C s).1 = 0xdeadbeef#32 ∧ s.hostPc = 1) = true := by decide

/-- P6, case (b): the host's `CMD FINAL` while the `UPDATE` waits is rejected. -/
theorem test_host_write_while_busy :
    nextSat (step { inFlight (.update 3) 4 with prog := [⟨none, some (.write 0x008 32 0x3#32)⟩] }) (fun s =>
      s.errcode = 4#8 ∧ s.busy = true ∧ s.latency = 3) = true := by decide

/-- R72: a byte access is refused. -/
theorem test_subword_refused :
    step (oneStmt (.write 0x00C 8 0xff#32)) = .refused (.subwordAccess 0x00C 8) := by rfl

/-- V-R4: reset abandons the command in flight. -/
theorem test_reset_abandons :
    nextSat (step { inFlight (.update 3) 0 with resetInput := [.pulse], keyValid := true }) (fun s =>
      s.busy = false ∧ statusWord s = 0#32 ∧ s.resetInput = []) = true := by decide

/-- R360: an access that coincides with reset is lost and reset wins, also where the window admits no such
access (log entry 5). -/
theorem test_reset_beats_refusal :
    nextSat (step { oneStmt (.write 0x00C 8 0xff#32) with resetInput := [.pulseOnAccess], din := 7#32 }) (fun s =>
      s.din = 0#32 ∧ s.hostPc = 1) = true := by decide

/-- R406 point 3: an error raised and cleared after the `INIT` leaves no valid result, though `ERR = 0` again;
one cleared before it does. The states are listed last first. -/
theorem test_result_validity :
    let done : State := { State.reset with phase := .finalized }
    let started : State := inFlight .init 0
    let failed : State := { State.reset with err := true, errcode := 5#8 }
    resultValid [done, started, State.reset, failed] = true ∧ resultValid [done, failed, started, State.reset] = false := by
  decide

/-- R109: the first chunk of `PUSH`. -/
theorem test_push_abc :
    expand (.push [0x61#8, 0x62#8, 0x63#8]) 9 =
      [⟨none, some (.write 0x00C 32 0x61626300#32)⟩, ⟨none, some (.write 0x008 32 0x00000302#32)⟩,
       ⟨some 9, some (.read 0x004 32 (some 0))⟩, ⟨none, some (.bnz 0 1#32 9)⟩] := by decide

/-! ### Witnesses: for every statement with hypotheses, values that meet them all -/

theorem zeroFrom_zeroStore (n : Nat) : zeroFrom n zeroStore := fun i _ => storeByte_zeroStore i

/-- A state with nothing buffered, no error and an empty phase meets the invariants when its mode fits. -/
theorem inv_idle (m : Mode) (kv : Bool) (hk : m = .key → kv = false) (hm : m = .hmac → kv = true) :
    Inv { State.reset with mode := m, keyValid := kv } where
  buf_clamped := zeroFrom_zeroStore _
  empty_iff := fun _ => ⟨fun _ => rfl, fun _ => rfl⟩
  finalized_drained := fun _ => rfl
  key_mode := fun h => ⟨(by intro hp; cases hp), hk h⟩
  hmac_mode := hm
  error_record := ⟨fun _ => rfl, fun _ => rfl⟩
  key_clamped := fun _ => zeroFrom_zeroStore _
  pending_accepted := fun h => by cases h

/-- A command in flight on the reset state, of a kind that reset accepts, meets them too. -/
theorem inv_inFlight (i : Instr) (n : Nat) (hd : decode (encode i) = .ok i)
    (ha : acceptError i (inFlight i n) = none) : Inv (inFlight i n) where
  buf_clamped := zeroFrom_zeroStore _
  empty_iff := fun _ => ⟨fun _ => rfl, fun _ => rfl⟩
  finalized_drained := fun _ => rfl
  key_mode := fun h => by cases h
  hmac_mode := fun h => by cases h
  error_record := ⟨fun _ => rfl, fun _ => rfl⟩
  key_clamped := fun h => by cases h
  pending_accepted := fun _ => ⟨i, hd, ha⟩

theorem witness_DecodeAndEncodeAgree :
    (Instr.update 4#3).wf = true ∧ (Instr.update 0#3).wf = true ∧ decode 0x402#32 = .ok (.update 4#3) := by decide

theorem witness_DataBytesAreTheFirstBytes :
    (0#3).toNat ≤ 4 ∧ (4#3).toNat ≤ 4 ∧ 3 < (4#3).toNat ∧
    0x616263ff#32 >>> (32 - 8 * (3#3).toNat) = 0x61626300#32 >>> (32 - 8 * (3#3).toNat) := by decide

theorem witness_PushedChunksCarryTheBytes :
    [0x61#8] ∈ chunks [0x61#8] ∧ [1#8, 2#8, 3#8, 4#8] ∈ chunks [1#8, 2#8, 3#8, 4#8, 5#8] := by decide

theorem witness_PairSumIgnoresOrder :
    [(⟨1#32, 2#32⟩ : Pair), ⟨3#32, 4#32⟩].Perm [⟨3#32, 4#32⟩, ⟨1#32, 2#32⟩] := List.Perm.swap _ _ _

/-- The buffer "ab" in one word is covered and clamped. -/
theorem witness_AppendDenotesConcatenation :
    bufCovered ⟨[0x61620000#32], 2⟩ ∧ bufClamped ⟨[0x61620000#32], 2⟩ := by
  refine ⟨by unfold bufCovered; decide, fun i hl hu => ?_⟩
  simp only [List.length_singleton] at hu hl
  have : i = 2 ∨ i = 3 := by omega
  rcases this with rfl | rfl <;> decide

/-- The empty buffer and the buffer "ab". -/
theorem witness_AppendIsAssociative :
    (bufCovered ⟨[], 0⟩ ∧ bufClamped ⟨[], 0⟩) ∧ bufCovered ⟨[0x61620000#32], 2⟩ ∧ bufClamped ⟨[0x61620000#32], 2⟩ :=
  ⟨⟨Nat.le_refl 0, fun i _ hu => absurd hu (Nat.not_lt_zero i)⟩, witness_AppendDenotesConcatenation⟩

/-- At 126 and at 127 buffered bytes. -/
theorem witness_AbsorbByteBuffersOrCompresses :
    zeroFrom ({ State.reset with buflen := 126 } : State).buflen.val State.reset.buf ∧
    zeroFrom nearlyFull.buflen.val nearlyFull.buf := ⟨zeroFrom_zeroStore _, zeroFrom_zeroStore _⟩

theorem witness_SplitOfDataIsInvisible :
    bytesOfStream [(0x61626300#32, 3#3)] = bytesOfStream [(0x61000000#32, 1#3), (0x62630000#32, 2#3)] ∧
    ({ State.reset with total := BitVec.ofNat 64 (2 ^ 64 - 4) } : State).total.toNat
      + (bytesOfStream [(0x61626300#32, 3#3)]).length < 2 ^ 64 := by decide

/-- 127 buffered bytes and no, then one byte: both cases of `Appends` at their boundary, and `NB = 0`. -/
theorem witness_UpdateAppendsItsBytes :
    zeroFrom nearlyFull.buflen.val nearlyFull.buf ∧
    nearlyFull.buflen.val + (dataBytes nearlyFull.pendDin 0#3).length < 128 ∧
    128 ≤ nearlyFull.buflen.val + (dataBytes nearlyFull.pendDin 1#3).length :=
  ⟨zeroFrom_zeroStore _, by decide, by decide⟩

theorem witness_FinalFinishesTheHash :
    nearlyFull.mode = .hash ∧ zeroFrom nearlyFull.buflen.val nearlyFull.buf := ⟨rfl, zeroFrom_zeroStore _⟩

theorem witness_FinalFinishesTheMac :
    ({ nearlyFull with mode := .hmac, keyValid := true } : State).mode = .hmac ∧
    zeroFrom nearlyFull.buflen.val nearlyFull.buf := ⟨rfl, zeroFrom_zeroStore _⟩

/-- At 127 key bytes, the last position below 128, and one past it. -/
theorem witness_KeyUpdateStoresAndHashes :
    zeroFrom nearlyFull.buflen.val nearlyFull.buf ∧ zeroFrom nearlyFull.total.toNat nearlyFull.key ∧
    nearlyFull.total.toNat < 128 ∧ ¬ nearlyFull.total.toNat + 1 < 128 :=
  ⟨zeroFrom_zeroStore _, zeroFrom_zeroStore _, by decide, by decide⟩

/-- Keys of 128 and of 129 bytes. -/
theorem witness_HmacStartAbsorbsTheInnerKey :
    (zeroFrom ({ State.reset with total := 128#64 } : State).buflen.val State.reset.buf ∧
      ({ State.reset with total := 128#64 } : State).total.toNat ≤ 128) ∧
    zeroFrom ({ State.reset with total := 129#64 } : State).buflen.val State.reset.buf ∧
    ¬ ({ State.reset with total := 129#64 } : State).total.toNat ≤ 128 :=
  ⟨⟨zeroFrom_zeroStore _, by decide⟩, zeroFrom_zeroStore _, by decide⟩

theorem witness_HmacResetEqualsHmacStart :
    ∃ t u : State, exec .hmacStart jefe = .next t ∧ u.key = t.key ∧ u.keyValid = true :=
  ⟨_, { State.reset with key := jefe.key, keyValid := true }, rfl, rfl, rfl⟩

/-- `FINAL` in both its modes. -/
theorem witness_CommandsCompressTheirBlocks :
    nearlyFull.mode = .hash ∧ ({ nearlyFull with mode := .hmac, keyValid := true } : State).mode = .hmac := by decide

theorem witness_StreamedHashIsSha512 :
    (bytesOfStream [(0x61620000#32, 2#3)] ++ dataBytes 0x63000000#32 1#3).length < 2 ^ 64 := by decide

theorem witness_StreamedKeyBecomesKeyZero : (bytesOfStream [(0x4a656665#32, 4#3)]).length < 2 ^ 64 := by decide

theorem witness_StreamedMacIsHmacSha512 :
    (bytesOfStream [(0x4a656665#32, 4#3)]).length < 2 ^ 64 ∧
    128 + (bytesOfStream [(0x77686174#32, 4#3)] ++ dataBytes 0x3f000000#32 1#3).length < 2 ^ 64 := by decide

/-- A step that keeps a recorded error, one that clears it by `ERRCODE` and one by reset. -/
theorem witness_OnlyWriteOrResetClearsErrors :
    nextSat (step { oneStmt (.write 0x00C 32 1#32) with err := true, errcode := 5#8 }) (fun t =>
      t.err = true ∧ t.errcode = 5#8) = true ∧
    nextSat (step { oneStmt (.write 0x010 32 9#32) with err := true, errcode := 5#8 }) (fun t => t.err = false) = true ∧
    nextSat (step { State.reset with err := true, errcode := 5#8, resetInput := [.pulse] }) (fun t => t.err = false) = true := by
  decide

theorem witness_FinalizedReuseIsRefused :
    (4#3).toNat ≤ 4 ∧ ({ State.reset with phase := .finalized } : State).busy = false ∧
    ({ State.reset with phase := .finalized } : State).mode ≠ .key ∧
    ({ State.reset with phase := .finalized } : State).phase = .finalized := by decide

/-- At the greatest `TOTAL` that still accepts four bytes. -/
theorem witness_AcceptedDataNeverWrapsTotal :
    (4#3).toNat ≤ 4 ∧
    acceptError (.update 4#3) { State.reset with total := BitVec.ofNat 64 (2 ^ 64 - 5) } = none ∧
    acceptError (.keyUpdate 4#3) { State.reset with mode := .key, total := BitVec.ofNat 64 (2 ^ 64 - 5) } = none ∧
    acceptError (.final 4#3) { State.reset with total := BitVec.ofNat 64 (2 ^ 64 - 5) } = none := by decide

/-- Every row of the table, on an idle state of its mode. -/
theorem witness_ModePhaseTransitions :
    (∃ s, Inv s ∧ acceptError .init s = none) ∧ (∃ s, Inv s ∧ acceptError (.update 4#3) s = none) ∧
    (∃ s, Inv s ∧ acceptError (.update 0#3) s = none) ∧ (∃ s, Inv s ∧ acceptError (.final 0#3) s = none) ∧
    (∃ s, Inv s ∧ acceptError .keyBegin s = none) ∧ (∃ s, Inv s ∧ acceptError (.keyUpdate 4#3) s = none) ∧
    (∃ s, Inv s ∧ acceptError .hmacStart s = none) ∧ (∃ s, Inv s ∧ acceptError .hmacReset s = none) :=
  have hash := inv_idle .hash false (fun _ => rfl) (fun h => by cases h)
  have key := inv_idle .key false (fun _ => rfl) (fun h => by cases h)
  have mac := inv_idle .hmac true (fun h => by cases h) (fun _ => rfl)
  ⟨⟨_, hash, rfl⟩, ⟨_, hash, rfl⟩, ⟨_, hash, rfl⟩, ⟨_, hash, rfl⟩, ⟨_, key, rfl⟩, ⟨_, key, rfl⟩, ⟨_, key, rfl⟩,
    ⟨_, mac, rfl⟩⟩

theorem witness_IdleReadsFollowTheMap : jefe.busy = false := by decide

theorem witness_BusyReadsOfResultsAreFree : (inFlight .init 0).busy = true := by decide

/-- A host step that writes `DIN`, on an idle engine. -/
theorem witness_HostNeverWritesDatapath :
    ∃ t, hostStep (oneStmt (.write 0x00C 32 0xdeadbeef#32)) = .next t ∧ t.din = 0xdeadbeef#32 := ⟨_, rfl, rfl⟩

/-- A `CMD` write while a command waits. -/
theorem witness_CommandInFlightIsUndisturbed :
    ∃ t, (inFlight .init 2).busy = true ∧
      hostStep { inFlight .init 2 with prog := [⟨none, some (.write 0x008 32 0x3#32)⟩] } = .next t := ⟨_, rfl, rfl⟩

/-- A mask that hits the variable, one that does not, and a label on the last line. -/
theorem witness_HostControlFlowTouchesNoRegister :
    getVar 0 [(3, 0x5#32)] 3 &&& 0x4#32 ≠ 0#32 ∧ getVar 0 [(3, 0x5#32)] 3 &&& 0x2#32 = 0#32 ∧
    labelIndex [⟨none, some .stop⟩, ⟨some 7, none⟩] 7 = some 1 := by decide

theorem witness_StepRunsTheCommandInFlight :
    ((inFlight .init 0).busy = true ∧ (inFlight .init 0).latency = 0 ∧ decode (inFlight .init 0).pendCmd = .ok .init ∧
      (inFlight .init 0).resetInput = []) ∧
    ({ inFlight .init 0 with resetInput := [.quiet, .pulse] } : State).resetInput = .quiet :: [.pulse] := by decide

/-- An idle engine and a waiting command, with no sample left and with a quiet one. -/
theorem witness_HostMovesWhileCommandWaits :
    (State.reset.resetInput = [] ∧ State.reset.busy = false) ∧
    ({ inFlight .init 1 with resetInput := [.quiet, .pulse] } : State).resetInput = .quiet :: [.pulse] ∧
    (inFlight .init 1).busy = true ∧ (inFlight .init 1).latency ≠ 0 := by decide

/-- A command with latency 1, a quiet sample and a host that has stopped: two steps complete it. -/
theorem witness_AcceptedCommandCompletes :
    let s : State := { inFlight .init 1 with resetInput := [.quiet], hostHalted := true }
    Inv s ∧ s.busy = true ∧ (∀ x ∈ s.resetInput, x = .quiet) ∧ s.hostHalted = true ∧
    ∃ t, Sys2Proof.core.run (s.latency + 1) s = .next t :=
  have inv := inv_inFlight .init 1 (by decide) (by decide)
  ⟨⟨inv.buf_clamped, inv.empty_iff, inv.finalized_drained, inv.key_mode, inv.hmac_mode, inv.error_record,
      inv.key_clamped, inv.pending_accepted⟩, rfl, by decide, rfl, ⟨_, rfl⟩⟩

/-- Reset between the steps, and on a write, a read into a variable, a dropped read and no access. -/
theorem witness_ResetWinsInEveryState :
    ({ inFlight .init 0 with resetInput := [.pulse] } : State).resetInput = .pulse :: [] ∧
    ({ oneStmt (.write 0x0FC 32 1#32) with resetInput := [.pulseOnAccess] } : State).resetInput = .pulseOnAccess :: [] ∧
    currentStmt (oneStmt (.write 0x0FC 32 1#32)) = some (.write 0x0FC 32 1#32) ∧
    currentStmt (oneStmt (.read 0x040 32 (some 3))) = some (.read 0x040 32 (some 3)) ∧
    currentStmt (oneStmt (.read 0x100 8 none)) = some (.read 0x100 8 none) ∧ currentStmt State.reset = none :=
  ⟨rfl, rfl, rfl, rfl, rfl, rfl⟩

/-- A step of the engine from a state that meets the invariants. -/
theorem witness_StepKeepsTheInvariants :
    ∃ t, Inv (inFlight (.update 3#3) 0) ∧ step (inFlight (.update 3#3) 0) = .next t ∧ t.total = 3#64 :=
  ⟨_, inv_inFlight (.update 3#3) 0 (by decide) (by decide), rfl, by decide⟩

/-- A step of the second of two engines, and the platform's reset of both. -/
theorem witness_InstancesShareNothing :
    (∃ sys', systemStep (.move 1) (#v[State.reset, { jefe with engine := 1 }] : System 1) = .next sys') ∧
    (1 : Fin 2) ≠ 0 ∧ (∃ sys', systemStep .platformReset (systemReset 1) = .next sys') ∧ numbered (systemReset 1) :=
  ⟨⟨_, rfl⟩, by decide, ⟨_, rfl⟩, fun k => by simp [systemReset]⟩

theorem witness_DisassemblyAssemblesBack : decode 0x00000402#32 = .ok (.update 4#3) := by decide

end Sys2Proof.Tests
end

section
/-! PROOFS. The stores and the input buffer: what keeps their unused bytes zero (spec/10_state.md R43 point 1,
spec/40_word_buffer.md R133). -/

namespace Sys2Proof.Machine

theorem zeroFrom_zeroStore (n : Nat) : zeroFrom n zeroStore := fun i _ => storeByte_zeroStore i

theorem zeroFrom_mono {m n : Nat} {ws : Vector Word 32} (h : zeroFrom m ws) (hmn : m ≤ n) : zeroFrom n ws :=
  fun i hi => h i (hmn.trans hi)

/-- A byte ORed in at the first unused position uses that position only. -/
theorem zeroFrom_orByte {ws : Vector Word 32} {p : Fin 128} (h : zeroFrom p.val ws) (b : Byte) :
    zeroFrom (p.val + 1) (orByte ws p b) := by
  intro i hi
  have hne : i ≠ p := by rintro rfl; omega
  rw [storeByte_orByte, if_neg hne]
  exact h i (by omega)

/-- `KEY` after further key bytes is zero past them, also where they run beyond the store (R302). -/
theorem zeroFrom_storeKeyBytes (d : List Byte) {p : Nat} {key : Vector Word 32} (h : zeroFrom p key) :
    zeroFrom (p + d.length) (storeKeyBytes d p key) := by
  induction d generalizing p key with
  | nil => exact h
  | cons b bs ih =>
    have hnext : zeroFrom (p + 1) (if hp : p < 128 then orByte key ⟨p, hp⟩ b else key) := by
      split
      · exact zeroFrom_orByte (p := ⟨p, ‹_›⟩) h b
      · exact zeroFrom_mono h (by omega)
    have hlen : p + (b :: bs).length = p + 1 + bs.length := by simp only [List.length_cons]; omega
    rw [hlen]
    exact ih hnext

/-! ### The input buffer through the streaming procedures -/

/-- The bytes of `BUF` at and past `BUFLEN` are zero (R43 point 1). -/
def Clamped (s : State) : Prop := zeroFrom s.buflen.val s.buf

theorem clamped_coreInit (s : State) : Clamped (coreInit s) := zeroFrom_zeroStore _

theorem Clamped.absorbByte {s : State} (h : Clamped s) (b : Byte) : Clamped (absorbByte b s) := by
  by_cases hlt : s.buflen.val + 1 < 128
  · rw [absorbByte_of_lt b s hlt]
    exact zeroFrom_orByte h b
  · rw [absorbByte_of_full b s hlt]
    exact zeroFrom_zeroStore _

theorem Clamped.absorbBytes {s : State} (h : Clamped s) (bs : List Byte) : Clamped (absorbBytes bs s) := by
  induction bs generalizing s with
  | nil => exact h
  | cons b bs ih => exact ih (h.absorbByte b)

theorem Clamped.appendData {s : State} (h : Clamped s) (d : List Byte) : Clamped (appendData d s) :=
  h.absorbBytes d

/-- `Pad` absorbs the padding of R152 and R154. -/
theorem pad_eq_absorbBytes (s : State) :
    pad s = absorbBytes (paddingBytes s.buflen.val (8 * s.total.toNat)) s := by
  have hb := absorbByte_buflen 0x80#8 s
  have hlt := s.buflen.isLt
  have hcount : (240 - (absorbByte 0x80#8 s).buflen.val) % 128 = (239 - s.buflen.val) % 128 := by omega
  rw [pad, padZeros_eq _ _ (by omega), hcount, paddingBytes, List.cons_append, absorbBytes_cons,
    absorbBytes_append, Nat.mul_comm]

theorem pad_buflen (s : State) : (pad s).buflen.val = 0 := by
  have hlt := s.buflen.isLt
  rw [pad_eq_absorbBytes, absorbBytes_buflen]
  simp only [paddingBytes, List.length_append, List.length_cons, List.length_replicate, lengthBytes_length]
  omega

theorem Clamped.pad {s : State} (h : Clamped s) : Clamped (pad s) := by
  rw [pad_eq_absorbBytes]
  exact h.absorbBytes _

theorem clamped_absorbInnerKey (s : State) : Clamped (absorbInnerKey s) := (clamped_coreInit s).appendData _

theorem Clamped.setMode {s : State} (h : Clamped s) (m : Mode) : Clamped (setMode m s) := h

theorem Clamped.markFinalized {s : State} (h : Clamped s) : Clamped (markFinalized s) := h

theorem clamped_hmacFinal (d : List Byte) (s : State) : Clamped (hmacFinal d s) := by
  rw [hmacFinal]
  exact (((clamped_coreInit _).appendData _).appendData _).pad.markFinalized

theorem hmacFinal_buflen (d : List Byte) (s : State) : (hmacFinal d s).buflen.val = 0 := by
  rw [hmacFinal, markFinalized_buflen, pad_buflen]

end Sys2Proof.Machine
end

section
/-! PROOFS. How `TOTAL` counts (spec/10_state.md R23), and which states accept a command
(spec/60_exceptions.md R352). -/

namespace Sys2Proof.Machine

theorem dataBytes_length_le (w : Word) (nb : BitVec 3) : (dataBytes w nb).length ≤ nb.toNat := by
  rw [dataBytes_length]; exact min_le_left _ _

theorem lengthOverflows_eq_false_iff (nb : BitVec 3) (s : State) :
    lengthOverflows nb s = false ↔ s.total.toNat + nb.toNat < 2 ^ 64 := by
  rw [lengthOverflows, totalMax, decide_eq_false_iff_not, not_lt, Nat.le_sub_one_iff_lt (by decide)]

/-- Without overflow, an append counts its bytes as an integer (R23). -/
theorem appendData_total_toNat {d : List Byte} {s : State} (h : s.total.toNat + d.length < 2 ^ 64) :
    (appendData d s).total.toNat = s.total.toNat + d.length := by
  rw [appendData_total, BitVec.toNat_add, BitVec.toNat_ofNat, Nat.add_mod_mod, Nat.mod_eq_of_lt h]

/-! ### Which states accept a command (spec/60_exceptions.md R352) -/

theorem acceptError_update_eq_none_iff (nb : BitVec 3) (s : State) :
    acceptError (.update nb) s = none ↔
      s.mode ≠ .key ∧ s.phase ≠ .finalized ∧ s.total.toNat + nb.toNat < 2 ^ 64 := by
  rw [← lengthOverflows_eq_false_iff, acceptError]
  split_ifs <;> simp_all

theorem acceptError_final_eq_none_iff (nb : BitVec 3) (s : State) :
    acceptError (.final nb) s = none ↔
      s.mode ≠ .key ∧ s.phase ≠ .finalized ∧ s.total.toNat + nb.toNat < 2 ^ 64 :=
  acceptError_update_eq_none_iff nb s

theorem acceptError_keyUpdate_eq_none_iff (nb : BitVec 3) (s : State) :
    acceptError (.keyUpdate nb) s = none ↔ s.mode = .key ∧ s.total.toNat + nb.toNat < 2 ^ 64 := by
  rw [← lengthOverflows_eq_false_iff, acceptError]
  split_ifs <;> simp_all

theorem acceptError_hmacReset_eq_none_iff (s : State) : acceptError .hmacReset s = none ↔ s.keyValid = true := by
  simp [acceptError]

/-- Settles O38: what acceptance bounds is what the append adds. -/
theorem acceptedDataNeverWrapsTotal : Obligations.AcceptedDataNeverWrapsTotal := by
  intro nb s hnb
  have hlen : (dataBytes s.pendDin nb).length = nb.toNat := by rw [dataBytes_length, min_eq_left hnb]
  have hcount (u : State) (hu : u.total = s.total) (hlt : s.total.toNat + nb.toNat < 2 ^ 64) :
      (appendData (dataBytes s.pendDin nb) u).total.toNat = s.total.toNat + nb.toNat := by
    rw [appendData_total_toNat (by rwa [hlen, hu]), hlen, hu]
  refine ⟨fun ha => ?_, fun ha => ?_, fun ha hmode => ?_⟩
  · obtain ⟨-, -, hlt⟩ := (acceptError_update_eq_none_iff nb s).1 ha
    exact ⟨_, rfl, hcount s rfl hlt⟩
  · obtain ⟨-, hlt⟩ := (acceptError_keyUpdate_eq_none_iff nb s).1 ha
    exact ⟨_, rfl, hcount _ (storeKeyData_total _ s) hlt⟩
  · obtain ⟨-, -, hlt⟩ := (acceptError_final_eq_none_iff nb s).1 ha
    refine ⟨_, if_pos hmode, ?_⟩
    rw [markFinalized_total, pad_total]
    exact hcount s rfl hlt

end Sys2Proof.Machine
end

section
/-! PROOFS. What the host leaves unchanged (spec/10_state.md R42). -/

namespace Sys2Proof.Machine

theorem SameDatapath.refl (s : State) : SameDatapath s s := ⟨rfl, rfl, rfl, rfl, rfl, rfl, rfl, rfl⟩

theorem SameDatapath.trans {s t u : State} (hst : SameDatapath s t) (htu : SameDatapath t u) : SameDatapath s u :=
  ⟨htu.h.trans hst.h, htu.buf.trans hst.buf, htu.buflen.trans hst.buflen, htu.total.trans hst.total,
    htu.phase.trans hst.phase, htu.mode.trans hst.mode, htu.key.trans hst.key, htu.keyValid.trans hst.keyValid⟩

theorem sameDatapath_hostNext (s : State) : SameDatapath s (hostNext s) := by constructor <;> rfl

theorem sameDatapath_countDraw (s : State) : SameDatapath s (countDraw s) := by constructor <;> rfl

theorem sameDatapath_countHostStep (s : State) : SameDatapath s (countHostStep s) := by constructor <;> rfl

theorem sameDatapath_consumeSample (s : State) : SameDatapath s (consumeSample s) := by constructor <;> rfl

theorem sameDatapath_setDin (v : Word) (s : State) : SameDatapath s (setDin v s) := by constructor <;> rfl

theorem sameDatapath_clearError (s : State) : SameDatapath s (clearError s) := by constructor <;> rfl

theorem sameDatapath_raiseError (e : ErrCode) (s : State) : SameDatapath s (raiseError e s) := by constructor <;> rfl

theorem sameDatapath_latchCommand (w : Word) (s : State) : SameDatapath s (latchCommand w s) := by constructor <;> rfl

theorem sameDatapath_assignRead (dst : Option Nat) (v : Word) (s : State) : SameDatapath s (assignRead dst v s) := by
  cases dst <;> constructor <;> rfl

theorem sameDatapath_onCmdWrite (w : Word) (s : State) : SameDatapath s (onCmdWrite w s) := by
  obtain ⟨-, -, h⟩ | ⟨e, h⟩ := onCmdWrite_cases w s
  · rw [h]; exact sameDatapath_latchCommand w s
  · rw [h]; exact sameDatapath_raiseError e s

theorem sameDatapath_regWrite (off : Nat) (v : Word) (s : State) : SameDatapath s (regWrite off v s) := by
  obtain ⟨-, h⟩ | ⟨-, h⟩ | ⟨-, h⟩ | h := regWrite_cases off v s
  · rw [h]; exact sameDatapath_onCmdWrite v s
  · rw [h]; exact sameDatapath_setDin v s
  · rw [h]; exact sameDatapath_clearError s
  · rw [h]; exact .refl s

theorem sameDatapath_regRead (off : Nat) (s : State) : SameDatapath s (regRead off s).2 := by
  obtain h | ⟨-, h⟩ := regRead_state off s
  · rw [h]; exact .refl s
  · rw [h]; exact sameDatapath_countDraw s

/-- No statement of the host writes the datapath state (spec/10_state.md R42). -/
theorem HostEffect.sameDatapath {s t : State} (h : HostEffect s t) : SameDatapath s t := by
  cases h with
  | wrote off v _ => exact (sameDatapath_regWrite off v s).trans (sameDatapath_hostNext _)
  | read off dst =>
    exact (sameDatapath_regRead off s).trans ((sameDatapath_assignRead dst _ _).trans (sameDatapath_hostNext _))
  | moved k => constructor <;> rfl
  | stopped => constructor <;> rfl

@[simp] theorem onCmdWrite_scratch (w : Word) (s : State) : (onCmdWrite w s).scratch = s.scratch := by
  obtain ⟨-, -, h⟩ | ⟨e, h⟩ := onCmdWrite_cases w s <;> simp [h]

@[simp] theorem regWrite_scratch (off : Nat) (v : Word) (s : State) : (regWrite off v s).scratch = s.scratch := by
  obtain ⟨-, h⟩ | ⟨-, h⟩ | ⟨-, h⟩ | h := regWrite_cases off v s <;> simp [h]

@[simp] theorem regRead_scratch (off : Nat) (s : State) : (regRead off s).2.scratch = s.scratch := by
  obtain h | ⟨-, h⟩ := regRead_state off s <;> simp [h]

theorem HostEffect.scratch_eq {s t : State} (h : HostEffect s t) : t.scratch = s.scratch := by
  cases h with
  | wrote off v _ => simp
  | read off dst => simp
  | moved k => rfl
  | stopped => rfl

/-- Settles O48, by the effect of one host statement. -/
theorem hostNeverWritesDatapath : Obligations.HostNeverWritesDatapath := by
  intro s t h
  have heffect := hostStep_next h
  exact ⟨heffect.sameDatapath, heffect.scratch_eq⟩

/-- The acceptance checks read nothing but the datapath state (spec/60_exceptions.md R352). -/
theorem acceptError_congr {s t : State} (h : SameDatapath s t) (i : Instr) : acceptError i t = acceptError i s := by
  cases i <;> simp [acceptError, lengthOverflows, h.mode, h.phase, h.total, h.keyValid]

end Sys2Proof.Machine
end

section
/-! PROOFS. The register window (spec/10_state.md R33 to R41): what each offset reads, and what it never shows. -/

namespace Sys2Proof.Machine

/-! ### Every offset's read, by the map -/

theorem busyOr_of_idle {s : State} (h : s.busy = false) (v : Word) : busyOr v s = (v, s) := by simp [busyOr, h]

theorem busyOr_of_busy {s : State} (h : s.busy = true) (v : Word) :
    busyOr v s = (Config.freeRead s.engine s.draws, countDraw s) := by simp [busyOr, h]

theorem regRead_id (s : State) : regRead 0x000 s = (0x53483531#32, s) := rfl
theorem regRead_status (s : State) : regRead 0x004 s = (statusWord s, s) := rfl
theorem regRead_cmd (s : State) : regRead 0x008 s = (0#32, s) := rfl
theorem regRead_din (s : State) : regRead 0x00C s = (s.din, s) := rfl
theorem regRead_errcode (s : State) : regRead 0x010 s = (s.errcode.zeroExtend 32, s) := rfl
theorem regRead_buflen (s : State) : regRead 0x014 s = busyOr (BitVec.ofNat 32 s.buflen.val) s := rfl
theorem regRead_totalLo (s : State) : regRead 0x018 s = busyOr (s.total.extractLsb' 0 32) s := rfl
theorem regRead_totalHi (s : State) : regRead 0x01C s = busyOr (s.total.extractLsb' 32 32) s := rfl

/-- From 0x020 on there are only the digest window and reserved offsets. -/
theorem regRead_of_ge {off : Nat} (hge : 0x020 ≤ off) (s : State) :
    regRead off s =
      if h : 0x040 ≤ off ∧ off ≤ 0x07F then busyOr (digestWord s.h ⟨(off - 0x040) / 4, by omega⟩) s
      else (0#32, s) := by
  unfold regRead
  iterate 8 rw [if_neg (by omega)]

/-- `DIGEST0..15` (R40). -/
theorem regRead_digest (n : Fin 16) (s : State) : regRead (0x040 + 4 * n.val) s = busyOr (digestWord s.h n) s := by
  have hindex : (⟨(0x040 + 4 * n.val - 0x040) / 4, by omega⟩ : Fin 16) = n := Fin.ext (by simp only []; omega)
  rw [regRead_of_ge (by omega), dif_pos (by omega), hindex]

/-- The reserved offsets read 0 (R41). -/
theorem regRead_reserved {off : Nat} (h : 0x020 ≤ off ∧ off < 0x040 ∨ 0x080 ≤ off) (s : State) :
    regRead off s = (0#32, s) := by
  rw [regRead_of_ge (by omega), dif_neg (by omega)]

theorem regRead_reservedLow (k : Fin 8) (s : State) : regRead (0x020 + 4 * k.val) s = (0#32, s) :=
  regRead_reserved (.inl (by omega)) s

theorem regRead_reservedHigh (k : Fin 32) (s : State) : regRead (0x080 + 4 * k.val) s = (0#32, s) :=
  regRead_reserved (.inr (by omega)) s

theorem digestWord_even (h : Vector Pair 8) (i : Fin 8) : digestWord h ⟨2 * i.val, by omega⟩ = h[i].hi := by
  simp [digestWord]

theorem digestWord_odd (h : Vector Pair 8) (i : Fin 8) : digestWord h ⟨2 * i.val + 1, by omega⟩ = h[i].lo := by
  have hdiv : (2 * i.val + 1) / 2 = i.val := by omega
  simp [digestWord, hdiv, Nat.add_mod]

/-- The even digest word of an element stands at 0x040 + 8i, the odd one at 0x044 + 8i. -/
theorem regRead_digestPair (i : Fin 8) (s : State) :
    regRead (0x040 + 8 * i.val) s = busyOr s.h[i].hi s ∧ regRead (0x044 + 8 * i.val) s = busyOr s.h[i].lo s := by
  constructor
  · rw [← digestWord_even, ← regRead_digest]; congr 1; simp only []; omega
  · rw [← digestWord_odd, ← regRead_digest]; congr 1; simp only []; omega

/-- Settles O41: each offset's read, where `BUSY = 0` lets the value through. -/
theorem idleReadsFollowTheMap : Obligations.IdleReadsFollowTheMap := by
  intro s hidle
  have hlow : s.total.extractLsb' 0 32 = s.total.truncate 32 := by
    apply BitVec.eq_of_getLsbD_eq; simp
  have hhigh : s.total.extractLsb' 32 32 = (s.total >>> 32).truncate 32 := by
    apply BitVec.eq_of_getLsbD_eq; simp
  refine ⟨regRead_id s, regRead_cmd s, regRead_din s, regRead_errcode s, ?_, ?_, ?_, fun i => ?_,
    fun k => regRead_reservedLow k s, fun k => regRead_reservedHigh k s⟩
  · rw [regRead_buflen, busyOr_of_idle hidle]
  · rw [regRead_totalLo, busyOr_of_idle hidle, hlow]
  · rw [regRead_totalHi, busyOr_of_idle hidle, hhigh]
  · obtain ⟨heven, hodd⟩ := regRead_digestPair i s
    rw [heven, hodd, busyOr_of_idle hidle, busyOr_of_idle hidle]
    exact ⟨rfl, rfl⟩

/-- Settles O42: the same reads, where `BUSY = 1` replaces the results by a draw. -/
theorem busyReadsOfResultsAreFree : Obligations.BusyReadsOfResultsAreFree := by
  intro s hbusy free
  have hfree (v : Word) : busyOr v s = free := busyOr_of_busy hbusy v
  refine ⟨regRead_id s, regRead_status s, regRead_cmd s, regRead_din s, regRead_errcode s, fun off hoff => ?_,
    fun n => (regRead_digest n s).trans (hfree _), fun k => regRead_reservedLow k s,
    fun k => regRead_reservedHigh k s⟩
  simp only [List.mem_cons, List.not_mem_nil, or_false] at hoff
  obtain rfl | rfl | rfl := hoff
  · exact hfree _
  · exact hfree _
  · exact hfree _

/-! ### `STATUS` -/

/-- Appending fields is a sum with weights. -/
theorem toNat_append_eq_add {m n : Nat} (x : BitVec m) (y : BitVec n) :
    (x ++ y).toNat = 2 ^ n * x.toNat + y.toNat := by
  rw [BitVec.toNat_append, Nat.shiftLeft_eq, Nat.mul_comm, Nat.two_pow_add_eq_or_of_lt y.isLt]

/-- `STATUS` as a number (R34). -/
theorem statusWord_toNat (s : State) :
    (statusWord s).toNat = s.busy.toNat + 2 * s.err.toNat + 4 * (phaseBits s.phase).toNat
      + 16 * (modeBits s.mode).toNat + 64 * s.keyValid.toNat := by
  simp only [statusWord, toNat_append_eq_add, BitVec.toNat_ofBool, BitVec.toNat_zero]
  omega

/-- Settles O40, by the weights of the fields. -/
theorem statusShowsItsFields : Obligations.StatusShowsItsFields := by
  intro s phase mode
  have hphase : (phaseBits s.phase).toNat = phase := by
    simp only [phase]; cases s.phase <;> rfl
  have hmode : (modeBits s.mode).toNat = mode := by
    simp only [mode]; cases s.mode <;> rfl
  refine ⟨fun v => rfl, rfl, ?_⟩
  rw [regRead_status, statusWord_toNat, hphase, hmode]

/-! ### What no register shows -/

theorem busyOr_fst_congr {v : Word} {s t : State} (hbusy : t.busy = s.busy) (hengine : t.engine = s.engine)
    (hdraws : t.draws = s.draws) : (busyOr v t).1 = (busyOr v s).1 := by
  unfold busyOr
  rw [hbusy, hengine, hdraws]
  split <;> rfl

/-- Settles O45: at each offset of the map, the value is made of fields that the two states share. -/
theorem hiddenStateIsNeverRead : Obligations.HiddenStateIsNeverRead := by
  intro off s key buf cmd din x
  unfold regRead
  split_ifs
  · rfl
  · rfl
  · rfl
  · rfl
  · rfl
  · exact busyOr_fst_congr rfl rfl rfl
  · exact busyOr_fst_congr rfl rfl rfl
  · exact busyOr_fst_congr rfl rfl rfl
  · exact busyOr_fst_congr rfl rfl rfl
  · rfl

/-! ### The window after reset -/

theorem atReset_reset : AtReset State.reset := by constructor <;> rfl

theorem atReset_resetEngine (s : State) : AtReset (resetEngine s) := by constructor <;> rfl

/-- Settles O56: the digest window of an idle engine shows `IV`. -/
theorem resetGivesTheListedValues : Obligations.ResetGivesTheListedValues := by
  refine ⟨atReset_reset, ?_, ?_⟩
  · decide
  · have hdigest (n : Fin 16) : (regRead (0x040 + 4 * n.val) State.reset).1 = digestWord iv n := by
      rw [regRead_digest, busyOr_of_idle rfl]; rfl
    simp only [hdigest]
    decide

end Sys2Proof.Machine
end

section
/-! PROOFS. The scratch of a compression is seen by no command (spec/10_state.md R30). -/

namespace Sys2Proof.Machine

/-- Two states that agree in every field but the scratch. -/
def SameButScratch (s u : State) : Prop := ∃ x, u = { s with scratch := x }

theorem SameButScratch.absorbByte {s u : State} (h : SameButScratch s u) (b : Byte) :
    SameButScratch (absorbByte b s) (absorbByte b u) := by
  obtain ⟨x, rfl⟩ := h
  by_cases hlt : s.buflen.val + 1 < 128
  · rw [absorbByte_of_lt b s hlt, absorbByte_of_lt b { s with scratch := x } hlt]; exact ⟨x, rfl⟩
  · rw [absorbByte_of_full b s hlt, absorbByte_of_full b { s with scratch := x } hlt]; exact ⟨_, rfl⟩

theorem SameButScratch.absorbBytes {s u : State} (h : SameButScratch s u) (bs : List Byte) :
    SameButScratch (absorbBytes bs s) (absorbBytes bs u) := by
  induction bs generalizing s u with
  | nil => exact h
  | cons b bs ih => exact ih (h.absorbByte b)

theorem SameButScratch.countAppended {s u : State} (h : SameButScratch s u) (d : List Byte) :
    SameButScratch (countAppended d s) (countAppended d u) := by
  obtain ⟨x, rfl⟩ := h; exact ⟨x, rfl⟩

theorem SameButScratch.appendData {s u : State} (h : SameButScratch s u) (d : List Byte) :
    SameButScratch (appendData d s) (appendData d u) := (h.absorbBytes d).countAppended d

theorem SameButScratch.total_eq {s u : State} (h : SameButScratch s u) : u.total = s.total := by
  obtain ⟨x, rfl⟩ := h; rfl

theorem SameButScratch.mode_eq {s u : State} (h : SameButScratch s u) : u.mode = s.mode := by
  obtain ⟨x, rfl⟩ := h; rfl

theorem SameButScratch.pendDin_eq {s u : State} (h : SameButScratch s u) : u.pendDin = s.pendDin := by
  obtain ⟨x, rfl⟩ := h; rfl

theorem SameButScratch.ipadKey_eq {s u : State} (h : SameButScratch s u) : ipadKey u = ipadKey s := by
  obtain ⟨x, rfl⟩ := h; rfl

theorem SameButScratch.opadKey_eq {s u : State} (h : SameButScratch s u) : opadKey u = opadKey s := by
  obtain ⟨x, rfl⟩ := h; rfl

theorem SameButScratch.h_eq {s u : State} (h : SameButScratch s u) : u.h = s.h := by
  obtain ⟨x, rfl⟩ := h; rfl

/-! The updates that do not mention the scratch. -/

theorem SameButScratch.coreInit {s u : State} (h : SameButScratch s u) : SameButScratch (coreInit s) (coreInit u) := by
  obtain ⟨x, rfl⟩ := h; exact ⟨x, rfl⟩

theorem SameButScratch.setMode {s u : State} (h : SameButScratch s u) (m : Mode) :
    SameButScratch (setMode m s) (setMode m u) := by
  obtain ⟨x, rfl⟩ := h; exact ⟨x, rfl⟩

theorem SameButScratch.clearKey {s u : State} (h : SameButScratch s u) : SameButScratch (clearKey s) (clearKey u) := by
  obtain ⟨x, rfl⟩ := h; exact ⟨x, rfl⟩

theorem SameButScratch.validateKey {s u : State} (h : SameButScratch s u) :
    SameButScratch (validateKey s) (validateKey u) := by
  obtain ⟨x, rfl⟩ := h; exact ⟨x, rfl⟩

theorem SameButScratch.markFinalized {s u : State} (h : SameButScratch s u) :
    SameButScratch (markFinalized s) (markFinalized u) := by
  obtain ⟨x, rfl⟩ := h; exact ⟨x, rfl⟩

theorem SameButScratch.storeKeyData {s u : State} (h : SameButScratch s u) (d : List Byte) :
    SameButScratch (storeKeyData d s) (storeKeyData d u) := by
  obtain ⟨x, rfl⟩ := h; exact ⟨x, rfl⟩

theorem SameButScratch.storeDigestKey {s u : State} (h : SameButScratch s u) :
    SameButScratch (storeDigestKey s) (storeDigestKey u) := by
  obtain ⟨x, rfl⟩ := h; exact ⟨x, rfl⟩

theorem SameButScratch.pad {s u : State} (h : SameButScratch s u) : SameButScratch (pad s) (pad u) := by
  have hbytes : paddingBytes u.buflen.val (8 * u.total.toNat) = paddingBytes s.buflen.val (8 * s.total.toNat) := by
    obtain ⟨x, rfl⟩ := h; rfl
  rw [pad_eq_absorbBytes, pad_eq_absorbBytes, hbytes]
  exact h.absorbBytes _

theorem SameButScratch.absorbInnerKey {s u : State} (h : SameButScratch s u) :
    SameButScratch (absorbInnerKey s) (absorbInnerKey u) := by
  rw [Machine.absorbInnerKey, Machine.absorbInnerKey, h.ipadKey_eq]
  exact h.coreInit.appendData _

theorem SameButScratch.formKey {s u : State} (h : SameButScratch s u) : SameButScratch (formKey s) (formKey u) := by
  unfold Machine.formKey
  rw [h.total_eq]
  split
  · exact h.pad.storeDigestKey
  · exact h

theorem SameButScratch.hmacFinal {s u : State} (h : SameButScratch s u) (d : List Byte) :
    SameButScratch (hmacFinal d s) (hmacFinal d u) := by
  have hinner := (h.appendData d).pad
  rw [Machine.hmacFinal, Machine.hmacFinal, hinner.opadKey_eq, hinner.h_eq]
  exact ((hinner.coreInit.appendData _).appendData _).pad.markFinalized

/-- Every command takes states that agree but for the scratch to such states (spec/10_state.md R30). -/
theorem SameButScratch.exec {i : Instr} {s u t v : State} (h : SameButScratch s u) (hs : exec i s = .next t)
    (hu : exec i u = .next v) : SameButScratch t v := by
  cases i with
  | init =>
    rw [exec_init_next hs, exec_init_next hu]
    exact h.coreInit.setMode _
  | update nb =>
    rw [exec_update_next hs, exec_update_next hu, h.pendDin_eq]
    exact h.appendData _
  | final nb =>
    obtain ⟨hm, rfl⟩ | ⟨hm, rfl⟩ := exec_final_next hs
    · obtain ⟨-, rfl⟩ | ⟨hm', -⟩ := exec_final_next hu
      · rw [h.pendDin_eq]
        exact (h.appendData _).pad.markFinalized
      · exact absurd (h.mode_eq.trans hm) hm'
    · obtain ⟨hm', -⟩ | ⟨-, rfl⟩ := exec_final_next hu
      · exact absurd (h.mode_eq.symm.trans hm') hm
      · rw [h.pendDin_eq]
        exact h.hmacFinal _
  | keyBegin =>
    rw [exec_keyBegin_next hs, exec_keyBegin_next hu]
    exact h.coreInit.clearKey.setMode _
  | keyUpdate nb =>
    rw [exec_keyUpdate_next hs, exec_keyUpdate_next hu, h.pendDin_eq]
    exact (h.storeKeyData _).appendData _
  | hmacStart =>
    rw [exec_hmacStart_next hs, exec_hmacStart_next hu]
    exact (h.formKey.validateKey.setMode _).absorbInnerKey
  | hmacReset =>
    rw [exec_hmacReset_next hs, exec_hmacReset_next hu]
    exact h.absorbInnerKey.setMode _

/-- Settles O46, by the relation that every command keeps. -/
theorem scratchIsIrrelevant : Obligations.ScratchIsIrrelevant := by
  intro i s x
  obtain ⟨t, ht⟩ := exec_next i s
  obtain ⟨u, hu⟩ := exec_next i { s with scratch := x }
  have hsame : SameButScratch s { s with scratch := x } := ⟨x, rfl⟩
  refine ⟨t, u, ht, hu, ?_⟩
  obtain ⟨y, rfl⟩ := hsame.exec ht hu
  rfl

end Sys2Proof.Machine
end

section
/-! PROOFS. The invariants of spec/10_state.md R43, over the engine's step, the host's step and reset. -/

namespace Sys2Proof.Machine

/-! ### The engine's step -/

/-- The invariants of spec/10_state.md R43 points 1 to 5, which the engine's step alone can break. -/
structure StreamInv (s : State) : Prop where
  buf_clamped : Clamped s
  empty_iff : s.phase ≠ .finalized → (s.phase = .empty ↔ s.total = 0#64)
  finalized_drained : s.phase = .finalized → s.buflen.val = 0
  key_mode : s.mode = .key → s.phase ≠ .finalized ∧ s.keyValid = false
  hmac_mode : s.mode = .hmac → s.keyValid = true

/-- The error record is consistent (R43 point 6). -/
def ErrorRecordOk (s : State) : Prop := s.errcode = 0#8 ↔ s.err = false

theorem Inv.streamInv {s : State} (h : Inv s) : StreamInv s :=
  ⟨h.buf_clamped, h.empty_iff, h.finalized_drained, h.key_mode, h.hmac_mode⟩

/-- Point 2 survives an append because `TOTAL` does not wrap. -/
theorem StreamInv.appendData {s : State} {d : List Byte} (h : StreamInv s) (hphase : s.phase ≠ .finalized)
    (hlt : s.total.toNat + d.length < 2 ^ 64) : StreamInv (appendData d s) where
  buf_clamped := h.buf_clamped.appendData d
  empty_iff := by
    intro _
    have htotal := appendData_total_toNat hlt
    cases d with
    | nil => simpa using h.empty_iff hphase
    | cons b bs =>
      rw [List.length_cons] at htotal
      have hne : (Machine.appendData (b :: bs) s).total ≠ 0#64 := by
        intro h0
        rw [h0, BitVec.toNat_zero] at htotal
        omega
      rw [appendData_phase]
      exact iff_of_false (by simp) hne
  finalized_drained := by
    intro hfin
    rw [appendData_phase] at hfin
    split at hfin
    · exact absurd hfin hphase
    · cases hfin
  key_mode := by
    intro hkey
    rw [appendData_mode] at hkey
    rw [appendData_phase, appendData_keyValid]
    refine ⟨?_, (h.key_mode hkey).2⟩
    split
    · exact hphase
    · decide
  hmac_mode := by
    rw [appendData_mode, appendData_keyValid]
    exact h.hmac_mode

/-- A finalized state needs no more than an empty clamped buffer and a mode that is not `KEY`. -/
theorem streamInv_of_finalized {t : State} (hclamped : Clamped t) (hdrained : t.buflen.val = 0)
    (hphase : t.phase = .finalized) (hkey : t.mode ≠ .key) (hmac : t.mode = .hmac → t.keyValid = true) :
    StreamInv t where
  buf_clamped := hclamped
  empty_iff := fun h => absurd hphase h
  finalized_drained := fun _ => hdrained
  key_mode := fun h => absurd h hkey
  hmac_mode := hmac

/-- With nothing streamed yet, any mode that fits `KEY_VALID` meets the streaming invariants. -/
theorem streamInv_of_empty {t : State} (hclamped : Clamped t) (hphase : t.phase = .empty) (htotal : t.total = 0#64)
    (hkey : t.mode = .key → t.keyValid = false) (hmac : t.mode = .hmac → t.keyValid = true) : StreamInv t where
  buf_clamped := hclamped
  empty_iff := fun _ => by simp [hphase, htotal]
  finalized_drained := fun h => by rw [hphase] at h; cases h
  key_mode := fun h => ⟨by rw [hphase]; decide, hkey h⟩
  hmac_mode := hmac

/-- The state in which a MAC's message begins (R303, R306): the inner key absorbed, the key valid. -/
theorem streamInv_of_macBegun {t : State} (hclamped : Clamped t) (hphase : t.phase = .accumulating)
    (htotal : t.total = 128#64) (hmode : t.mode = .hmac) (hvalid : t.keyValid = true) : StreamInv t where
  buf_clamped := hclamped
  empty_iff := fun _ => by simp [hphase, htotal]
  finalized_drained := fun h => by rw [hphase] at h; cases h
  key_mode := fun h => by rw [hmode] at h; cases h
  hmac_mode := fun _ => hvalid

/-- Every accepted command keeps points 1 to 5. -/
theorem exec_keeps_streamInv {i : Instr} {s t : State} (hs : StreamInv s) (ha : acceptError i s = none)
    (h : exec i s = .next t) : StreamInv t := by
  have hbound (nb : BitVec 3) (hlt : s.total.toNat + nb.toNat < 2 ^ 64) :
      s.total.toNat + (dataBytes s.pendDin nb).length < 2 ^ 64 :=
    (Nat.add_le_add_left (dataBytes_length_le _ nb) _).trans_lt hlt
  cases i with
  | init =>
    obtain rfl := exec_init_next h
    exact streamInv_of_empty (clamped_coreInit s) rfl rfl (fun hm => by cases hm) (fun hm => by cases hm)
  | update nb =>
    obtain ⟨-, hphase, hlt⟩ := (acceptError_update_eq_none_iff nb s).1 ha
    rw [exec_update_next h]
    exact hs.appendData hphase (hbound nb hlt)
  | final nb =>
    obtain ⟨hkey, -, -⟩ := (acceptError_final_eq_none_iff nb s).1 ha
    obtain ⟨-, rfl⟩ | ⟨-, rfl⟩ := exec_final_next h
    · exact streamInv_of_finalized (hs.buf_clamped.appendData _).pad.markFinalized
        (by rw [markFinalized_buflen, pad_buflen]) (markFinalized_phase _)
        (by simpa using hkey) (by simpa using hs.hmac_mode)
    · exact streamInv_of_finalized (clamped_hmacFinal _ s) (hmacFinal_buflen _ s) (hmacFinal_phase _ s)
        (by simpa using hkey) (by simpa using hs.hmac_mode)
  | keyBegin =>
    obtain rfl := exec_keyBegin_next h
    exact streamInv_of_empty (clamped_coreInit s) rfl rfl (fun _ => rfl) (fun hm => by cases hm)
  | keyUpdate nb =>
    obtain ⟨hmode, hlt⟩ := (acceptError_keyUpdate_eq_none_iff nb s).1 ha
    rw [exec_keyUpdate_next h]
    have hstored : StreamInv (storeKeyData (dataBytes s.pendDin nb) s) :=
      ⟨hs.buf_clamped, hs.empty_iff, hs.finalized_drained, hs.key_mode, hs.hmac_mode⟩
    exact hstored.appendData (hs.key_mode hmode).1 (hbound nb hlt)
  | hmacStart =>
    rw [exec_hmacStart_next h]
    exact streamInv_of_macBegun (clamped_absorbInnerKey _) (by simp) (by simp) (by simp) (by simp)
  | hmacReset =>
    rw [exec_hmacReset_next h]
    have hvalid := (acceptError_hmacReset_eq_none_iff s).1 ha
    exact streamInv_of_macBegun ((clamped_absorbInnerKey s).setMode _) (by simp) (by simp) (setMode_mode _ _)
      (by simpa using hvalid)

/-- After an accepted command in `MODE = KEY`, the key store is clamped at `TOTAL`: only `KEY_BEGIN` and
`KEY_UPDATE` end in that mode. -/
theorem exec_keeps_keyClamped {i : Instr} {s t : State} (hs : s.mode = .key → zeroFrom s.total.toNat s.key)
    (ha : acceptError i s = none) (h : exec i s = .next t) : t.mode = .key → zeroFrom t.total.toNat t.key := by
  intro hmode
  cases i with
  | init => rw [exec_init_next h, setMode_mode] at hmode; cases hmode
  | update nb =>
    obtain ⟨hkey, -, -⟩ := (acceptError_update_eq_none_iff nb s).1 ha
    rw [exec_update_next h, appendData_mode] at hmode
    exact absurd hmode hkey
  | final nb =>
    obtain ⟨hkey, -, -⟩ := (acceptError_final_eq_none_iff nb s).1 ha
    obtain ⟨-, rfl⟩ | ⟨-, rfl⟩ := exec_final_next h
    · exact absurd (by simpa using hmode) hkey
    · exact absurd (by simpa using hmode) hkey
  | keyBegin =>
    rw [exec_keyBegin_next h, setMode_key, clearKey_key]
    exact zeroFrom_zeroStore _
  | keyUpdate nb =>
    obtain ⟨hkey, hlt⟩ := (acceptError_keyUpdate_eq_none_iff nb s).1 ha
    have hle := dataBytes_length_le s.pendDin nb
    rw [exec_keyUpdate_next h, appendData_key, storeKeyData_key,
      appendData_total_toNat (by rw [storeKeyData_total]; omega), storeKeyData_total]
    exact zeroFrom_storeKeyBytes _ (hs hkey)
  | hmacStart =>
    rw [exec_hmacStart_next h, absorbInnerKey_mode, setMode_mode] at hmode; cases hmode
  | hmacReset => rw [exec_hmacReset_next h, setMode_mode] at hmode; cases hmode

theorem errorRecordOk_congr {s t : State} (herr : t.err = s.err) (hcode : t.errcode = s.errcode)
    (h : ErrorRecordOk s) : ErrorRecordOk t := by
  rwa [ErrorRecordOk, herr, hcode]

/-- No accepted command touches the error record (spec/60_exceptions.md R356). -/
theorem exec_errorRecord {i : Instr} {s t : State} (h : exec i s = .next t) :
    t.err = s.err ∧ t.errcode = s.errcode := by
  cases i with
  | init => rw [exec_init_next h]; exact ⟨rfl, rfl⟩
  | update nb => rw [exec_update_next h]; simp
  | final nb => obtain ⟨-, rfl⟩ | ⟨-, rfl⟩ := exec_final_next h <;> simp
  | keyBegin => rw [exec_keyBegin_next h]; exact ⟨rfl, rfl⟩
  | keyUpdate nb => rw [exec_keyUpdate_next h]; simp
  | hmacStart => rw [exec_hmacStart_next h]; simp
  | hmacReset => rw [exec_hmacReset_next h]; simp

/-- The engine's step keeps the invariants: the command in flight was accepted, and none is in flight after. -/
theorem engineStep_keeps_inv {s t : State} (hs : Inv s) (hbusy : s.busy = true) (h : engineStep s = .next t) :
    Inv t := by
  obtain ⟨i, u, hd, hu, rfl⟩ := engineStep_next h
  obtain ⟨j, hj, ha⟩ := hs.pending_accepted hbusy
  obtain rfl : j = i := Except.ok.inj (hj.symm.trans hd)
  obtain ⟨hbuf, hempty, hfin, hkey, hmac⟩ := exec_keeps_streamInv hs.streamInv ha hu
  obtain ⟨herr, hcode⟩ := exec_errorRecord hu
  have hrecord := errorRecordOk_congr herr hcode hs.error_record
  have hstore := exec_keeps_keyClamped hs.key_clamped ha hu
  exact ⟨hbuf, hempty, hfin, hkey, hmac, hrecord, hstore, fun hb => by cases hb⟩

/-! ### The host's step -/

theorem errCode_code_ne_zero (e : ErrCode) : e.code ≠ 0#8 := by cases e <;> decide

theorem ErrorRecordOk.raiseError {s : State} (h : ErrorRecordOk s) (e : ErrCode) : ErrorRecordOk (raiseError e s) := by
  have hne : (Machine.raiseError e s).errcode ≠ 0#8 := by
    rw [raiseError_errcode]
    split
    · rename_i herr
      intro h0
      rw [h.1 h0] at herr
      cases herr
    · exact errCode_code_ne_zero e
  exact ⟨fun h0 => absurd h0 hne, fun h0 => by cases h0⟩

theorem errorRecordOk_clearError (s : State) : ErrorRecordOk (clearError s) := ⟨fun _ => rfl, fun _ => rfl⟩

theorem ErrorRecordOk.regWrite {s : State} (h : ErrorRecordOk s) (off : Nat) (v : Word) :
    ErrorRecordOk (regWrite off v s) := by
  obtain ⟨-, hw⟩ | ⟨-, hw⟩ | ⟨-, hw⟩ | hw := regWrite_cases off v s
  · obtain ⟨-, -, hc⟩ | ⟨e, hc⟩ := onCmdWrite_cases v s
    · rw [hw, hc]; exact h
    · rw [hw, hc]; exact h.raiseError e
  · rw [hw]; exact h
  · rw [hw]; exact errorRecordOk_clearError s
  · rw [hw]; exact h

/-- What a register write does to the command in flight: nothing, or the acceptance of a command. -/
theorem regWrite_command (off : Nat) (v : Word) (s : State) :
    ((regWrite off v s).busy = s.busy ∧ (regWrite off v s).pendCmd = s.pendCmd) ∨
    ∃ i, decode (regWrite off v s).pendCmd = .ok i ∧ acceptError i s = none := by
  obtain ⟨-, hw⟩ | ⟨-, hw⟩ | ⟨-, hw⟩ | hw := regWrite_cases off v s
  · obtain ⟨-, haccept, hc⟩ | ⟨e, hc⟩ := onCmdWrite_cases v s
    · rw [hw, hc]; exact .inr haccept
    · rw [hw, hc]; exact .inl ⟨rfl, rfl⟩
  · rw [hw]; exact .inl ⟨rfl, rfl⟩
  · rw [hw]; exact .inl ⟨rfl, rfl⟩
  · rw [hw]; exact .inl ⟨rfl, rfl⟩

theorem regRead_frame (off : Nat) (s : State) :
    (regRead off s).2.busy = s.busy ∧ (regRead off s).2.pendCmd = s.pendCmd ∧
      (regRead off s).2.err = s.err ∧ (regRead off s).2.errcode = s.errcode := by
  obtain h | ⟨-, h⟩ := regRead_state off s <;> simp [h]

/-- The invariants depend on the datapath state, the error record and the command in flight only; the acceptance
checks may be made before the change, because they read the datapath only. -/
theorem Inv.of_sameDatapath {s t : State} (hs : Inv s) (h : SameDatapath s t) (herr : ErrorRecordOk t)
    (hpend : t.busy = true → ∃ i, decode t.pendCmd = .ok i ∧ acceptError i s = none) : Inv t where
  buf_clamped := by rw [h.buflen, h.buf]; exact hs.buf_clamped
  empty_iff := by rw [h.phase, h.total]; exact hs.empty_iff
  finalized_drained := by rw [h.phase, h.buflen]; exact hs.finalized_drained
  key_mode := by rw [h.mode, h.phase, h.keyValid]; exact hs.key_mode
  hmac_mode := by rw [h.mode, h.keyValid]; exact hs.hmac_mode
  error_record := herr
  key_clamped := by rw [h.mode, h.total, h.key]; exact hs.key_clamped
  pending_accepted := fun hb =>
    let ⟨i, hd, ha⟩ := hpend hb
    ⟨i, hd, (acceptError_congr h i).trans ha⟩

/-- A change that touches neither the datapath, nor the error record, nor the command in flight. -/
theorem Inv.of_frame {s t : State} (hs : Inv s) (h : SameDatapath s t) (herr : t.err = s.err)
    (hcode : t.errcode = s.errcode) (hbusy : t.busy = s.busy) (hcmd : t.pendCmd = s.pendCmd) : Inv t := by
  refine hs.of_sameDatapath h (errorRecordOk_congr herr hcode hs.error_record) fun hb => ?_
  rw [hcmd]
  exact hs.pending_accepted (hbusy.symm.trans hb)

theorem Inv.regWrite {s : State} (hs : Inv s) (off : Nat) (v : Word) : Inv (regWrite off v s) := by
  have hrecord := ErrorRecordOk.regWrite hs.error_record off v
  refine hs.of_sameDatapath (sameDatapath_regWrite off v s) hrecord fun hb => ?_
  obtain ⟨hbusy, hcmd⟩ | haccept := regWrite_command off v s
  · rw [hcmd]; exact hs.pending_accepted (hbusy.symm.trans hb)
  · exact haccept

/-- The host's step keeps the invariants. -/
theorem HostEffect.keeps_inv {s t : State} (h : HostEffect s t) (hs : Inv s) : Inv t := by
  have hsame := h.sameDatapath
  cases h with
  | wrote off v _ => exact (hs.regWrite off v).of_frame (sameDatapath_hostNext _) rfl rfl rfl rfl
  | read off dst =>
    obtain ⟨hbusy, hcmd, herr, hcode⟩ := regRead_frame off s
    exact hs.of_frame hsame (by simpa using herr) (by simpa using hcode) (by simpa using hbusy) (by simpa using hcmd)
  | moved k => exact hs.of_frame hsame rfl rfl rfl rfl
  | stopped => exact hs.of_frame hsame rfl rfl rfl rfl

/-! ### Reset and the step of the machine -/

/-- A state with the values of R44 meets the invariants of R43. -/
theorem AtReset.inv {s : State} (h : AtReset s) : Inv s where
  buf_clamped := by rw [h.buf]; exact zeroFrom_zeroStore _
  empty_iff := fun _ => by simp [h.phase, h.total]
  finalized_drained := fun _ => by rw [h.buflen]; rfl
  key_mode := fun hm => by rw [h.mode] at hm; cases hm
  hmac_mode := fun hm => by rw [h.mode] at hm; cases hm
  error_record := by simp [h.errcode, h.err]
  key_clamped := fun hm => by rw [h.mode] at hm; cases hm
  pending_accepted := fun hb => by rw [h.busy] at hb; cases hb

/-- Settles O58: the reset state has the values of R44. -/
theorem resetMeetsTheInvariants : Obligations.ResetMeetsTheInvariants := atReset_reset.inv

/-- A step without reset keeps the invariants. -/
theorem advance_keeps_inv {s t : State} (hs : Inv s) (h : advance s = .next t) : Inv t := by
  obtain ⟨hbusy, -, h⟩ | ⟨-, -, h⟩ | ⟨-, h⟩ := advance_next h
  · exact engineStep_keeps_inv hs hbusy h
  · exact h.keeps_inv (hs.of_frame (sameDatapath_countHostStep s) rfl rfl rfl rfl)
  · exact h.keeps_inv hs

/-- Settles O57: a reset gives the reset values, and the engine's and the host's step keep the invariants. -/
theorem stepKeepsTheInvariants : Obligations.StepKeepsTheInvariants := by
  intro s t hs h
  obtain ⟨-, h⟩ | ⟨-, h⟩ | ⟨-, rfl⟩ | ⟨-, rfl⟩ := step_next h
  · exact advance_keeps_inv hs h
  · exact advance_keeps_inv (hs.of_frame (sameDatapath_consumeSample s) rfl rfl rfl rfl) h
  · exact (atReset_resetEngine _).inv
  · exact (atReset_resetEngine _).inv

end Sys2Proof.Machine
end

section
/-! PROOFS. What the host's accesses to the register window do (spec/20_memory.md R70, R72, R74). -/

namespace Sys2Proof.Machine

/-! ### Which accesses run -/

theorem admitAccess_of_outside {off : Nat} (h : 0x100 ≤ off) (bits : Nat) (next : State) :
    admitAccess off bits next = .fault (.outsideWindow off) := if_pos h

theorem admitAccess_of_inside {off : Nat} (h : ¬ 0x100 ≤ off) (bits : Nat) (next : State) :
    admitAccess off bits next =
      if bits ≠ 32 ∨ off % 4 ≠ 0 then .refused (.subwordAccess off bits) else .next next := if_neg h

/-- The test of R72 in its positive form: 32 bits wide and aligned. -/
theorem admitAccess_eq (off bits : Nat) (next : State) :
    admitAccess off bits next =
      if 0x100 ≤ off then .fault (.outsideWindow off)
      else if bits = 32 ∧ off % 4 = 0 then .next next
      else .refused (.subwordAccess off bits) := by
  split_ifs with hout hword
  · exact admitAccess_of_outside hout bits next
  · rw [admitAccess_of_inside hout, if_neg (by omega)]
  · rw [admitAccess_of_inside hout, if_pos (by omega)]

/-- Settles O44: a write and a read are admitted by the same test. -/
theorem onlyAlignedWordAccessesRun : Obligations.OnlyAlignedWordAccessesRun :=
  fun off bits _ _ _ => ⟨admitAccess_eq off bits _, admitAccess_eq off bits _⟩

/-! ### What a write does, by its offset -/

theorem regWrite_cmd (v : Word) (s : State) : regWrite 0x008 v s = onCmdWrite v s := rfl
theorem regWrite_din (v : Word) (s : State) : regWrite 0x00C v s = { s with din := v } := rfl
theorem regWrite_errcode (v : Word) (s : State) : regWrite 0x010 v s = { s with err := false, errcode := 0#8 } := rfl

/-- A write at any other offset is ignored (R74). -/
theorem regWrite_ignored {off : Nat} (hcmd : off ≠ 0x008) (hdin : off ≠ 0x00C) (herr : off ≠ 0x010) (v : Word)
    (s : State) : regWrite off v s = s := by
  rw [regWrite, if_neg hcmd, if_neg hdin, if_neg herr]

/-- Settles O43: a read moves at most the count of draws, and a write acts by its offset. -/
theorem onlyThreeOffsetsAct : Obligations.OnlyThreeOffsetsAct := by
  refine ⟨fun off s => ?_, fun off v s => ?_⟩
  · obtain h | ⟨-, h⟩ := regRead_state off s
    · rw [h]
    · rw [h]; rfl
  · split_ifs with hcmd hdin herr
    · rw [hcmd, regWrite_cmd]
    · rw [hdin, regWrite_din]
    · rw [herr, regWrite_errcode]
    · exact regWrite_ignored hcmd hdin herr v s

end Sys2Proof.Machine
end

section
/-! PROOFS. The bytes of a digest, by the window's words and by the 64-bit values (spec/20_memory.md R75, R76). -/

namespace Sys2Proof.Machine

/-- In a concatenation of pieces of one length `m`, element `m * i + k` is element `k` of piece `i`. -/
theorem getElem?_flatMap_of_length {α β : Type} {f : α → List β} {m : Nat} (hlen : ∀ x, (f x).length = m)
    (xs : List α) (i : Nat) {k : Nat} (hk : k < m) :
    (xs.flatMap f)[m * i + k]? = xs[i]?.bind fun x => (f x)[k]? := by
  induction xs generalizing i with
  | nil => simp
  | cons x xs ih =>
    rw [List.flatMap_cons]
    cases i with
    | zero => rw [List.getElem?_append_left (by rw [hlen]; omega)]; simp
    | succ i =>
      have hoffset : m * (i + 1) + k = m + (m * i + k) := by rw [Nat.mul_succ]; omega
      rw [hoffset, List.getElem?_append_right (by rw [hlen]; omega), hlen, Nat.add_sub_cancel_left, ih,
        List.getElem?_cons_succ]

theorem bytesOfWord_getElem? (w : Word) {k : Nat} (hk : k < 4) : (bytesOfWord w)[k]? = some (wordByte w k) := by
  match k, hk with
  | 0, _ | 1, _ | 2, _ | 3, _ => rfl

/-- Only the place in the word counts (R131). -/
theorem wordByte_congr (w : Word) {i j : Nat} (h : i % 4 = j % 4) : wordByte w i = wordByte w j := by
  rw [wordByte, h, wordByte]

/-! ### An element's eight bytes: four of `hi`, then four of `lo` -/

theorem digestBytes_getElem? (h : Vector Pair 8) (i : Fin 8) {k : Nat} (hk : k < 8) :
    (digestBytes h)[8 * i.val + k]? = (bytesOfWord h[i].hi ++ bytesOfWord h[i].lo)[k]? := by
  rw [digestBytes, getElem?_flatMap_of_length (m := 8) (fun _ => rfl) _ _ hk]
  simp

theorem digestBytes_hi (h : Vector Pair 8) (i : Fin 8) {k : Nat} (hk : k < 4) :
    (digestBytes h)[8 * i.val + k]? = some (wordByte h[i].hi k) := by
  rw [digestBytes_getElem? h i (by omega), List.getElem?_append_left hk, bytesOfWord_getElem? _ hk]

theorem digestBytes_lo (h : Vector Pair 8) (i : Fin 8) {k : Nat} (hk : k < 4) :
    (digestBytes h)[8 * i.val + (4 + k)]? = some (wordByte h[i].lo k) := by
  rw [digestBytes_getElem? h i (by omega), List.getElem?_append_right (by simp), bytesOfWord_length,
    Nat.add_sub_cancel_left, bytesOfWord_getElem? _ hk]

/-! ### The same bytes in the 64-bit value -/

theorem pairVal_getLsbD (p : Pair) (m : Nat) :
    (pairVal p).getLsbD m = if m < 32 then p.lo.getLsbD m else p.hi.getLsbD (m - 32) :=
  BitVec.getLsbD_append

theorem pairVal_byte_hi (p : Pair) {k : Nat} (hk : k < 4) :
    (pairVal p >>> (56 - 8 * k)).truncate 8 = wordByte p.hi k := by
  apply BitVec.eq_of_getLsbD_eq
  intro j hj
  have hhigh : ¬ 56 - 8 * k + j < 32 := by omega
  have hplace : 56 - 8 * k + j - 32 = 24 - k % 4 * 8 + j := by omega
  rw [getLsbD_wordByte _ _ _ hj]
  simp only [BitVec.getLsbD_setWidth, BitVec.getLsbD_ushiftRight, hj, pairVal_getLsbD, hhigh, hplace, decide_true,
    Bool.true_and, if_false]

theorem pairVal_byte_lo (p : Pair) {k : Nat} (hk : k < 4) :
    (pairVal p >>> (56 - 8 * (4 + k))).truncate 8 = wordByte p.lo k := by
  apply BitVec.eq_of_getLsbD_eq
  intro j hj
  have hplace : 56 - 8 * (4 + k) + j = 24 - k % 4 * 8 + j := by omega
  have hlow : 24 - k % 4 * 8 + j < 32 := by omega
  rw [getLsbD_wordByte _ _ _ hj]
  simp only [BitVec.getLsbD_setWidth, BitVec.getLsbD_ushiftRight, hj, pairVal_getLsbD, hplace, hlow, decide_true,
    Bool.true_and, if_true]

/-- Byte `8i + k` is byte `k` of the 64-bit value of element `i` (R76). -/
theorem digestBytes_eq_pairVal_byte (h : Vector Pair 8) (i k : Fin 8) :
    (digestBytes h)[8 * i.val + k.val]? = some ((pairVal h[i] >>> (56 - 8 * k.val)).truncate 8) := by
  by_cases hk : k.val < 4
  · rw [digestBytes_hi h i hk, pairVal_byte_hi _ hk]
  · obtain ⟨m, hm⟩ := Nat.exists_eq_add_of_le (Nat.le_of_not_lt hk)
    rw [hm, digestBytes_lo h i (by omega), pairVal_byte_lo _ (by omega)]

/-! ### The same bytes in the window -/

theorem digestByte_hi (h : Vector Pair 8) (i : Fin 8) {k : Nat} (hk : k < 4) :
    digestByte h ⟨8 * i.val + k, by omega⟩ = wordByte h[i].hi k := by
  have hword : (8 * i.val + k) / 4 = 2 * i.val := by omega
  simp only [digestByte, hword]
  rw [digestWord_even, wordByte_congr _ (j := k) (by omega)]

theorem digestByte_lo (h : Vector Pair 8) (i : Fin 8) {k : Nat} (hk : k < 4) :
    digestByte h ⟨8 * i.val + (4 + k), by omega⟩ = wordByte h[i].lo k := by
  have hword : (8 * i.val + (4 + k)) / 4 = 2 * i.val + 1 := by omega
  simp only [digestByte, hword]
  rw [digestWord_odd, wordByte_congr _ (j := k) (by omega)]

/-- Byte `n` is the one the host computes from the window (R76). -/
theorem digestBytes_eq_digestByte (h : Vector Pair 8) (n : Fin 64) :
    (digestBytes h)[n.val]? = some (digestByte h n) := by
  obtain ⟨n, hn⟩ := n
  obtain ⟨i, k, hk, rfl⟩ : ∃ (i : Fin 8) (k : Nat), k < 8 ∧ n = 8 * i.val + k :=
    ⟨⟨n / 8, by omega⟩, n % 8, Nat.mod_lt _ (by decide), (Nat.div_add_mod n 8).symm⟩
  by_cases hhi : k < 4
  · rw [digestByte_hi h i hhi, digestBytes_hi h i hhi]
  · obtain ⟨m, rfl⟩ := Nat.exists_eq_add_of_le (Nat.le_of_not_lt hhi)
    rw [digestByte_lo h i (by omega), digestBytes_lo h i (by omega)]

/-- Settles O47: each byte stands in one half of one element, which both forms name. -/
theorem digestBytesFollowTheWindow : Obligations.DigestBytesFollowTheWindow :=
  fun h => ⟨digestBytes_length h, digestBytes_eq_digestByte h, digestBytes_eq_pairVal_byte h⟩

end Sys2Proof.Machine
end

section
/-! PROOFS. A system of engines (spec/20_memory.md R82, spec/60_exceptions.md R364). -/

namespace Sys2Proof.Machine

/-- A step of engine `k` replaces that engine by its own next state. -/
theorem systemStep_move_next {n : Nat} {k : Fin (n + 1)} {sys sys' : System n}
    (h : systemStep (.move k) sys = .next sys') : ∃ t, step sys[k] = .next t ∧ sys' = sys.set k t := by
  unfold systemStep at h
  cases hstep : step sys[k] with
  | next t => simp only [hstep, Host.Outcome.next.injEq] at h; exact ⟨t, rfl, h.symm⟩
  | fault r => simp only [hstep] at h; cases h
  | refused r => simp only [hstep] at h; cases h

theorem system_get_set_self {n : Nat} (sys : System n) (k : Fin (n + 1)) (t : State) : (sys.set k t)[k] = t := by
  simp

theorem system_get_set_of_ne {n : Nat} (sys : System n) {j k : Fin (n + 1)} (hne : j ≠ k) (t : State) :
    (sys.set k t)[j] = sys[j] := by
  have hval : k.val ≠ j.val := fun h => hne (Fin.ext h.symm)
  simp [hval]

theorem system_get_map_resetEngine {n : Nat} (sys : System n) (j : Fin (n + 1)) :
    (sys.map resetEngine)[j] = resetEngine sys[j] := by simp

theorem sameHost_resetEngine (s : State) : SameHost s (resetEngine s) := by constructor <;> rfl

/-- Every step of a system keeps the number of every engine. -/
theorem systemStep_engine {n : Nat} {e : SystemEvent n} {sys sys' : System n} (h : systemStep e sys = .next sys')
    (j : Fin (n + 1)) : sys'[j].engine = sys[j].engine := by
  cases e with
  | move k =>
    obtain ⟨t, hstep, rfl⟩ := systemStep_move_next h
    by_cases hj : j = k
    · rw [hj, system_get_set_self, step_engine hstep]
    · rw [system_get_set_of_ne sys hj]
  | platformReset => cases h; rw [system_get_map_resetEngine, resetEngine_engine]

theorem numbered_systemReset (n : Nat) : numbered (systemReset n) := fun k => by simp [systemReset]

/-- Settles O59: a step writes one place of the system, and the platform's reset acts on every place alone. -/
theorem instancesShareNothing : Obligations.InstancesShareNothing := by
  refine fun n => ⟨fun k sys sys' h => ?_, fun sys => ⟨_, rfl, fun j => ?_⟩, fun e sys sys' hnum h j => ?_,
    numbered_systemReset n⟩
  · obtain ⟨t, hstep, rfl⟩ := systemStep_move_next h
    exact ⟨by rw [system_get_set_self, hstep], fun j hj => system_get_set_of_ne sys hj t⟩
  · rw [system_get_map_resetEngine]
    exact ⟨atReset_resetEngine _, sameHost_resetEngine _⟩
  · rw [systemStep_engine h, hnum j]

end Sys2Proof.Machine
end

section
/-! PROOFS. The command words: decoding and encoding (spec/30_encoding.md R100 to R107). -/

namespace Sys2Proof

/-! ### The fields of a word (R100) -/

theorem opField_toNat (w : Word) : (opField w).toNat = w.toNat % 256 := by
  simp [opField]

theorem nbField_toNat (w : Word) : (nbField w).toNat = w.toNat / 256 % 8 := by
  simp [nbField, Nat.shiftRight_eq_div_pow]

theorem rsvField_toNat (w : Word) : (rsvField w).toNat = w.toNat / 2048 := by
  have := w.isLt
  simp only [rsvField, BitVec.extractLsb'_toNat, Nat.shiftRight_eq_div_pow]
  omega

/-- A word is its three fields, side by side. -/
theorem append_fields (w : Word) : rsvField w ++ nbField w ++ opField w = w := by
  apply BitVec.eq_of_toNat_eq
  rw [Machine.toNat_append_eq_add, Machine.toNat_append_eq_add, rsvField_toNat, nbField_toNat, opField_toNat]
  omega

/-- The word of a command shows the command's fields. -/
theorem fields_encode (i : Instr) : Laws.EncodeFields.Statement i := by
  cases i with
  | init => exact Laws.EncodeFields.init
  | update nb => exact Laws.EncodeFields.update nb
  | final nb => exact Laws.EncodeFields.final nb
  | keyBegin => exact Laws.EncodeFields.keyBegin
  | keyUpdate nb => exact Laws.EncodeFields.keyUpdate nb
  | hmacStart => exact Laws.EncodeFields.hmacStart
  | hmacReset => exact Laws.EncodeFields.hmacReset

/-! ### The opcode map (R103) and the limits of `NB` (R101) -/

theorem Instr.wf_eq (i : Instr) : i.wf = nbOk (nbOf i) := by cases i <;> rfl

theorem nbOf_of_no_data {i : Instr} (h : takesData i = false) : nbOf i = 0#3 := by
  cases i <;> simp_all [takesData, nbOf]

/-- The opcode map finds every command under its own opcode. -/
theorem commandOf_opcodeOf (i : Instr) : commandOf (opcodeOf i) (nbOf i) = some (i, takesData i) := by
  cases i <;> rfl

/-- Whatever the opcode map answers has the opcode it was found under, and the given `NB` if it takes data. -/
theorem commandOf_eq_some {op : BitVec 8} {nb : BitVec 3} {i : Instr} {data : Bool}
    (h : commandOf op nb = some (i, data)) :
    opcodeOf i = op ∧ data = takesData i ∧ (takesData i = true → nbOf i = nb) := by
  unfold commandOf at h
  split_ifs at h <;> cases h <;> simp_all [opcodeOf, takesData, nbOf]

/-- `Decode` accepts a word exactly when it passes the tests of R107. -/
theorem decode_eq_ok_iff (w : Word) (i : Instr) :
    decode w = .ok i ↔ commandOf (opField w) (nbField w) = some (i, takesData i) ∧ rsvField w = 0#21 ∧
      nbOk (nbField w) = true ∧ (takesData i = false → nbField w = 0#3) := by
  unfold decode
  cases hcmd : commandOf (opField w) (nbField w) with
  | none => simp
  | some found =>
    obtain ⟨j, data⟩ := found
    obtain ⟨-, rfl, -⟩ := commandOf_eq_some hcmd
    by_cases hj : j = i
    · subst hj; simp only [ite_not]; split_ifs <;> simp_all
    · simp only [ite_not]; split_ifs <;> simp [hj]

/-! ### The round trip -/

/-- A well-formed command is what its word decodes to. -/
theorem decode_encode {i : Instr} (hwf : i.wf = true) : decode (encode i) = .ok i := by
  obtain ⟨hop, hnb, hrsv⟩ := fields_encode i
  rw [decode_eq_ok_iff, hop, hnb, hrsv]
  exact ⟨commandOf_opcodeOf i, rfl, i.wf_eq ▸ hwf, nbOf_of_no_data⟩

/-- The `NB` of a word that decodes is the command's. -/
theorem nbOf_of_decode {w : Word} {i : Instr} (h : decode w = .ok i) : nbOf i = nbField w := by
  obtain ⟨hcmd, -, -, hnone⟩ := (decode_eq_ok_iff w i).mp h
  obtain ⟨-, -, hnb⟩ := commandOf_eq_some hcmd
  cases hdata : takesData i with
  | true => exact hnb hdata
  | false => rw [nbOf_of_no_data hdata, hnone hdata]

theorem wf_of_decode {w : Word} {i : Instr} (h : decode w = .ok i) : i.wf = true := by
  obtain ⟨-, -, hok, -⟩ := (decode_eq_ok_iff w i).mp h
  rw [i.wf_eq, nbOf_of_decode h, hok]

/-- A word that decodes is the word of its command. -/
theorem encode_of_decode {w : Word} {i : Instr} (h : decode w = .ok i) : encode i = w := by
  obtain ⟨hcmd, hrsv, -, -⟩ := (decode_eq_ok_iff w i).mp h
  obtain ⟨hop, -, -⟩ := commandOf_eq_some hcmd
  rw [encode, nbOf_of_decode h, hop, ← hrsv, append_fields]

/-- Settles O1: the fields of a command's word, and the word as its three fields, by the tests of R107. -/
theorem decodeAndEncodeAgree : Obligations.DecodeAndEncodeAgree :=
  ⟨fun _ => decode_encode, fun _ _ h => ⟨wf_of_decode h, encode_of_decode h⟩⟩

/-- Settles O3: each word is the word of its command, and the command is well-formed. -/
theorem writtenOutWordsDecode : Obligations.WrittenOutWordsDecode :=
  ⟨decode_encode (i := .init) rfl, decode_encode (i := .update 3) rfl, decode_encode (i := .final 4) rfl,
    decode_encode (i := .keyBegin) rfl, decode_encode (i := .keyUpdate 4) rfl, decode_encode (i := .hmacStart) rfl,
    decode_encode (i := .hmacReset) rfl⟩

/-! ### The tests by numbers (R107) -/

theorem commandOf_eq_none_iff (op : BitVec 8) (nb : BitVec 3) :
    commandOf op nb = none ↔ op.toNat ∉ [0x01, 0x02, 0x03, 0x10, 0x11, 0x12, 0x13] := by
  unfold commandOf
  split_ifs <;> simp_all [BitVec.toNat_eq]

theorem nbOk_eq_false_iff (nb : BitVec 3) : nbOk nb = false ↔ 4 < nb.toNat := by simp [nbOk]

/-- Settles O2: an opcode outside the map fails the first test; under each of the seven, the tests on `RSV` and
`NB` are those of R107 on numbers. -/
theorem decodeFollowsFieldTests : Obligations.DecodeFollowsFieldTests := by
  intro w
  dsimp only
  rw [← opField_toNat, ← nbField_toNat, ← rsvField_toNat]
  unfold decode
  generalize opField w = op, nbField w = nb, rsvField w = rsv
  by_cases hop : op.toNat ∈ [0x01, 0x02, 0x03, 0x10, 0x11, 0x12, 0x13]
  · have hrsv : rsv ≠ 0#21 ↔ rsv.toNat ≠ 0 := by simp [BitVec.toNat_eq]
    have hnb : nb ≠ 0#3 ↔ nb.toNat ≠ 0 := by simp [BitVec.toNat_eq]
    have hcases : op = 0x01#8 ∨ op = 0x02#8 ∨ op = 0x03#8 ∨ op = 0x10#8 ∨ op = 0x11#8 ∨ op = 0x12#8 ∨
      op = 0x13#8 := by simpa [BitVec.toNat_eq] using hop
    rcases hcases with rfl | rfl | rfl | rfl | rfl | rfl | rfl <;>
      simp [commandOf, hrsv, hnb, nbOk_eq_false_iff]
  · rw [(commandOf_eq_none_iff op nb).mpr hop, if_pos hop]

end Sys2Proof
end

section
/-! PROOFS. The data operand of a command, and the chunks of `PUSH` and `KPUSH` (spec/30_encoding.md R102, R109). -/

namespace Sys2Proof.Machine

/-! ### The data operand (R102) -/

theorem dataBytes_length_of_le {nb : BitVec 3} (h : nb.toNat ≤ 4) (w : Word) : (dataBytes w nb).length = nb.toNat := by
  rw [dataBytes_length, Nat.min_eq_left h]

/-- A data operand is the front of the word's four bytes. -/
theorem dataBytes_getElem? (w : Word) {nb : BitVec 3} (h : nb.toNat ≤ 4) {j : Nat} (hj : j < nb.toNat) :
    (dataBytes w nb)[j]? = some (wordByte w j) := by
  rw [← bytesOfWord_getElem? w (hj.trans_le h)]
  exact List.getElem?_take_of_lt hj

/-- A byte of a word by shift and mask, as R102 writes it. -/
theorem wordByte_eq_mask (w : Word) {j : Nat} (hj : j < 4) :
    wordByte w j = ((w >>> (24 - j * 8)) &&& 0xFF#32).truncate 8 := by
  rw [wordByte, Nat.mod_eq_of_lt hj, BitVec.truncate_eq_setWidth, BitVec.truncate_eq_setWidth, BitVec.setWidth_and,
    show (0xFF#32).setWidth 8 = BitVec.allOnes 8 from rfl, BitVec.and_allOnes]

/-- The first `n` bytes of a word are those of its topmost `8 * n` bits. -/
theorem wordByte_of_shift (w : Word) {n j : Nat} (hn : n ≤ 4) (hj : j < n) :
    wordByte w j = ((w >>> (32 - 8 * n)) >>> (8 * (n - 1 - j))).truncate 8 := by
  rw [wordByte, ← BitVec.shiftRight_add, show 32 - 8 * n + 8 * (n - 1 - j) = 24 - j % 4 * 8 by omega]

/-- Settles O4: byte `j` of the operand is byte `j` of the word, which the topmost bits decide. -/
theorem dataBytesAreTheFirstBytes : Obligations.DataBytesAreTheFirstBytes := by
  refine fun w nb hnb => ⟨dataBytes_length_of_le hnb w, fun j hj => ?_, fun v hv => ?_⟩
  · rw [dataBytes_getElem? w hnb hj, wordByte_eq_mask w (hj.trans_le hnb)]
  · refine List.ext_getElem? fun j => ?_
    by_cases hj : j < nb.toNat
    · rw [dataBytes_getElem? v hnb hj, dataBytes_getElem? w hnb hj, wordByte_of_shift v hnb hj, hv,
        ← wordByte_of_shift w hnb hj]
    · rw [List.getElem?_eq_none (by rw [dataBytes_length_of_le hnb]; omega),
        List.getElem?_eq_none (by rw [dataBytes_length_of_le hnb]; omega)]

/-! ### Chunks (R109) -/

/-- A packed chunk shows its bytes in order, and zero after them. -/
theorem wordByte_packBytes (c : List Byte) {k : Nat} (hk : k < 4) : wordByte (packBytes c) k = c.getD k 0#8 := by
  simp only [packBytes, wordByte_or]
  interval_cases k <;> simp [wordByte_byteAt_same, wordByte_byteAt_ne]

/-- The datum of a chunk carries the chunk. -/
theorem dataBytes_packBytes {c : List Byte} (hc : c.length ≤ 4) :
    dataBytes (packBytes c) (BitVec.ofNat 3 c.length) = c := by
  have hnb : (BitVec.ofNat 3 c.length).toNat = c.length := by simp; omega
  have hle : (BitVec.ofNat 3 c.length).toNat ≤ 4 := hnb.symm ▸ hc
  refine List.ext_getElem (by rw [dataBytes_length_of_le hle, hnb]) fun j hj hjc => ?_
  rw [List.getElem_eq_iff, dataBytes_getElem? _ hle (by omega), wordByte_packBytes c (by omega)]
  simp [hjc]

theorem chunks_length {bs c : List Byte} (h : c ∈ chunks bs) : 1 ≤ c.length ∧ c.length ≤ 4 := by
  induction bs using chunks.induct with
  | case1 a b c' d rest ih =>
    rw [chunks, List.mem_cons] at h
    rcases h with rfl | h
    · simp
    · exact ih h
  | case2 => cases h
  | case3 a => simp_all [chunks]
  | case4 a b => simp_all [chunks]
  | case5 a b c' => simp_all [chunks]

theorem chunks_flatten (bs : List Byte) : (chunks bs).flatten = bs := by
  induction bs using chunks.induct with
  | case1 a b c d rest ih => simp [chunks, ih]
  | case2 => rfl
  | case3 a => rfl
  | case4 a b => rfl
  | case5 a b c => rfl

/-- The words and lengths of the chunks carry the bytes. -/
theorem bytesOfStream_chunks (bs : List Byte) :
    bytesOfStream ((chunks bs).map fun c => (packBytes c, BitVec.ofNat 3 c.length)) = bs := by
  calc bytesOfStream ((chunks bs).map fun c => (packBytes c, BitVec.ofNat 3 c.length))
      = (chunks bs).flatMap fun c => dataBytes (packBytes c) (BitVec.ofNat 3 c.length) := List.flatMap_map ..
    _ = (chunks bs).flatMap id := List.flatMap_congr fun c hc => dataBytes_packBytes (chunks_length hc).2
    _ = bs := by rw [List.flatMap_id, chunks_flatten]

/-- The lines of one chunk whose `WAIT` has the label `ck.2` (R109). -/
def chunkLines (cmd : BitVec 3 → Instr) (ck : List Byte × Nat) : List HostLine :=
  [writeReg .din (packBytes ck.1), cmdLine (cmd (BitVec.ofNat 3 ck.1.length))] ++ expandWait ck.2

/-- The chunks are expanded one after another, with labels that count from the first. -/
theorem expandPush_eq_flatMap (cmd : BitVec 3 → Instr) (cs : List (List Byte)) (l : Nat) :
    expandPush cmd cs l = (cs.zipIdx l).flatMap (chunkLines cmd) := by
  induction cs generalizing l with
  | nil => rfl
  | cons c rest ih => rw [expandPush, ih, List.zipIdx_cons, List.flatMap_cons, chunkLines]

/-- Settles O5: the expansion goes chunk by chunk, and each chunk's word and length give the chunk back. -/
theorem pushedChunksCarryTheBytes : Obligations.PushedChunksCarryTheBytes :=
  fun bs l => ⟨expandPush_eq_flatMap .update (chunks bs) l, expandPush_eq_flatMap .keyUpdate (chunks bs) l,
    bytesOfStream_chunks bs, fun _ => chunks_length⟩

end Sys2Proof.Machine
end

section
/-! PROOFS. The host's control flow (spec/30_encoding.md R108). -/

namespace Sys2Proof.Machine

theorem maskHit_iff (s : State) (x : Nat) (mask : Word) :
    maskHit s x mask = true ↔ getVar s.engine s.hostVars x &&& mask ≠ 0#32 := decide_eq_true_iff

/-- A branch to a label of the program goes to its line. -/
theorem branchTo_of_label {l k : Nat} {s : State} (h : labelIndex s.prog l = some k) :
    branchTo l s = .next { s with hostPc := k } := by
  simp only [branchTo, h]

theorem hostExec_bnz (x l : Nat) (mask : Word) (s : State) :
    hostExec (.bnz x mask l) s = if maskHit s x mask then branchTo l s else .next (hostNext s) := rfl

theorem hostExec_bz (x l : Nat) (mask : Word) (s : State) :
    hostExec (.bz x mask l) s = if maskHit s x mask then .next (hostNext s) else branchTo l s := rfl

theorem hostExec_goto (l : Nat) (s : State) : hostExec (.goto l) s = branchTo l s := rfl

/-- Settles O51: the mask test chooses between the next line and the branch, and both move the host only. -/
theorem hostControlFlowTouchesNoRegister : Obligations.HostControlFlowTouchesNoRegister := by
  intro x l mask s
  dsimp only
  simp only [← maskHit_iff, hostExec_bnz, hostExec_bz, hostExec_goto]
  refine ⟨rfl, fun hmiss => if_neg hmiss, fun hhit => if_pos hhit, fun k hk => ?_⟩
  rw [branchTo_of_label hk]
  exact ⟨fun hhit => if_pos hhit, fun hmiss => if_neg hmiss, rfl⟩

end Sys2Proof.Machine
end

section
/-! PROOFS. The text of a disassembled command, assembled again (spec/30_encoding.md R108). -/

namespace Sys2Proof.Machine

/-! ### The lexer on words and single separators -/

/-- A character of a name or a number. -/
def isWordChar (c : Char) : Bool := c.isAlphanum || c == '_'

/-- A word character is no separator and no punctuation. -/
theorem lexLine_wordChar {c : Char} (hc : isWordChar c = true) (acc : List Char) (ts : List Token) (cs : List Char) :
    lexLine .plain acc ts (c :: cs) = lexLine .plain (c :: acc) ts cs := by
  have hne : ∀ d : Char, isWordChar d = false → c ≠ d := by rintro d hd rfl; simp [hc] at hd
  have hword : c.isAlphanum = true ∨ c = '_' := by simpa [isWordChar] using hc
  have hquote : c ≠ quoteChar := hne _ (by decide)
  have htick : c ≠ tickChar := hne _ (by decide)
  have hpunct : punctuation c = none := by
    simp [punctuation, hne ',' (by decide), hne ':' (by decide), hne '=' (by decide), hne '*' (by decide)]
  simp [lexLine, hquote, htick, hpunct, hword, hne ';' (by decide), hne ' ' (by decide), hne '\t' (by decide),
    hne '\r' (by decide), hne '-' (by decide)]

theorem lexLine_word {w : List Char} (hw : w.all isWordChar = true) (acc : List Char) (ts : List Token)
    (cs : List Char) : lexLine .plain acc ts (w ++ cs) = lexLine .plain (w.reverse ++ acc) ts cs := by
  induction w generalizing acc with
  | nil => rfl
  | cons c w ih =>
    rw [List.all_cons, Bool.and_eq_true] at hw
    obtain ⟨hc, hcs⟩ := hw
    rw [List.cons_append, lexLine_wordChar hc, ih hcs, List.reverse_cons, List.append_assoc, List.singleton_append]

theorem lexLine_space (acc : List Char) (ts : List Token) (cs : List Char) :
    lexLine .plain acc ts (' ' :: cs) = lexLine .plain [] (endWord acc ts) cs := by
  simp [lexLine]

theorem lexLine_equals (acc : List Char) (ts : List Token) (cs : List Char) :
    lexLine .plain acc ts ('=' :: cs) = lexLine .plain [] (.equals :: endWord acc ts) cs := by
  simp [lexLine, punctuation, quoteChar, tickChar]

theorem lexLine_nil (acc : List Char) (ts : List Token) :
    lexLine .plain acc ts [] = some (endWord acc ts).reverse := rfl

theorem endWord_reverse {w : List Char} (hw : w ≠ []) (ts : List Token) :
    endWord w.reverse ts = .word w :: ts := by
  simp [endWord, hw]

/-! ### Lines -/

theorem newline_not_mem_word {w : List Char} (hw : w.all isWordChar = true) : '\n' ∉ w :=
  fun hmem => absurd (List.all_eq_true.mp hw _ hmem) (by decide)

/-- A text without a line break is one line. -/
theorem splitLines_of_no_newline {text : List Char} (h : '\n' ∉ text) (acc : List Char) :
    splitLines acc text = [acc.reverse ++ text] := by
  induction text generalizing acc with
  | nil => simp [splitLines]
  | cons c cs ih =>
    obtain ⟨hc, hcs⟩ := not_or.mp (List.mem_cons.not.mp h)
    simp [splitLines, Ne.symm hc, ih hcs]

/-- The program of a text of one line that is a statement of the host. -/
theorem assemble_of_line {text : List Char} {label : Option Nat} {st : HostStmt} (hline : '\n' ∉ text)
    (hparse : parseLine text = some ⟨label, some (.stmt st)⟩) : assemble text = some [⟨label, some st⟩] := by
  simp [assemble, splitLines_of_no_newline hline, hparse, expandLines]

/-! ### The text and the tokens of a command -/

/-- The operand ` nb=…` of a data command, empty for the others. -/
def operandText (i : Instr) : List Char :=
  if takesData i then ' ' :: (['n', 'b'] ++ '=' :: [Nat.digitChar (nbOf i).toNat]) else []

/-- The tokens of `operandText`. -/
def operandTokens (i : Instr) : List Token :=
  if takesData i then [.word ['n', 'b'], .equals, .word [Nat.digitChar (nbOf i).toNat]] else []

theorem toDigits_nb (nb : BitVec 3) : Nat.toDigits 10 nb.toNat = [Nat.digitChar nb.toNat] :=
  Nat.toDigits_of_lt_base (nb.isLt.trans (by decide))

theorem digitValue_nb (nb : BitVec 3) : digitValue (Nat.digitChar nb.toNat) = some nb.toNat := by
  revert nb; decide

theorem isWordChar_nb (nb : BitVec 3) : [Nat.digitChar nb.toNat].all isWordChar = true := by
  revert nb; decide

theorem isWordChar_mnemonicOf (i : Instr) : (mnemonicOf i).toList.all isWordChar = true := by
  cases i <;> simp [mnemonicOf, isWordChar]

theorem mnemonicOf_ne_nil (i : Instr) : (mnemonicOf i).toList ≠ [] := by cases i <;> simp [mnemonicOf]

theorem opcodeNamed_mnemonicOf (i : Instr) : opcodeNamed (mnemonicOf i).toList = some (opcodeOf i) := by
  cases i <;> simp [opcodeNamed, mnemonicOf, opcodeOf]

/-- The disassembly of a command word: `CMD`, the mnemonic, and the operand of a data command. -/
theorem disassemble_toList {w : Word} {i : Instr} (h : decode w = .ok i) :
    (disassemble w).toList = ['C', 'M', 'D'] ++ ' ' :: ((mnemonicOf i).toList ++ operandText i) := by
  cases hdata : takesData i <;> simp [disassemble, h, operandText, hdata, toDigits_nb]

theorem newline_not_mem_disassemble {w : Word} {i : Instr} (h : decode w = .ok i) :
    '\n' ∉ (disassemble w).toList := by
  have hmnemonic := newline_not_mem_word (isWordChar_mnemonicOf i)
  have hnb := newline_not_mem_word (isWordChar_nb (nbOf i))
  rw [disassemble_toList h, operandText]
  split_ifs <;> simp_all

/-- After a mnemonic, the operand ends that word and adds its own tokens. -/
theorem lexLine_operandText (i : Instr) (acc : List Char) (ts : List Token) :
    lexLine .plain acc ts (operandText i) = some ((endWord acc ts).reverse ++ operandTokens i) := by
  unfold operandText operandTokens
  split
  · rw [lexLine_space, lexLine_word (by decide), lexLine_equals, ← List.append_nil [Nat.digitChar _],
      lexLine_word (isWordChar_nb (nbOf i)), lexLine_nil]
    simp [endWord]
  · simp [lexLine_nil]

/-- The disassembly of a command word lexes to its tokens. -/
theorem lexLine_disassemble {w : Word} {i : Instr} (h : decode w = .ok i) :
    lexLine .plain [] [] (disassemble w).toList =
      some (.word ['C', 'M', 'D'] :: .word (mnemonicOf i).toList :: operandTokens i) := by
  rw [disassemble_toList h, lexLine_word (by decide), lexLine_space, lexLine_word (isWordChar_mnemonicOf i),
    List.append_nil, lexLine_operandText, endWord_reverse (mnemonicOf_ne_nil i)]
  simp [endWord]

/-- `CMD` with the tokens of a command is a write of the command's word (R108). -/
theorem parseCmd_command (i : Instr) :
    parseCmd (.word (mnemonicOf i).toList :: operandTokens i) = some (.stmt (.write 0x008 32 (encode i))) := by
  cases hdata : takesData i with
  | true =>
    have hlt := (nbOf i).isLt
    simp [operandTokens, hdata, parseCmd, opcodeNamed_mnemonicOf, digitValue_nb, cmdWrite, encode, regOffset, hlt]
  | false =>
    simp [operandTokens, hdata, parseCmd, opcodeNamed_mnemonicOf, cmdWrite, encode, regOffset, nbOf_of_no_data hdata]

theorem parseStmt_cmd (ts : List Token) : parseStmt ['C', 'M', 'D'] ts = parseCmd ts := rfl

theorem parseLine_disassemble {w : Word} {i : Instr} (h : decode w = .ok i) :
    parseLine (disassemble w).toList = some ⟨none, some (.stmt (.write 0x008 32 w))⟩ := by
  simp only [parseLine, lexLine_disassemble h, parseBody, parseStmt_cmd, parseCmd_command, encode_of_decode h,
    Option.map_some]

/-- Settles O60: the disassembly is one line, whose tokens are a `CMD` statement of the word's command. -/
theorem disassemblyAssemblesBack : Obligations.DisassemblyAssemblesBack := fun _ _ h =>
  assemble_of_line (newline_not_mem_disassemble h) (parseLine_disassemble h)

end Sys2Proof.Machine
end

section
/-! PROOFS. `Append` on Word Buffers (spec/40_word_buffer.md R130 to R133, R137). -/

namespace Sys2Proof.Machine

/-! ### The words after one byte is ORed in (R132) -/

theorem orInto_length (ws : List Word) (p : Nat) (b : Byte) : (orInto ws p b).length = max ws.length (p / 4 + 1) := by
  simp only [orInto, List.length_set, List.length_append, List.length_replicate]
  omega

/-- Zero words at the end are not seen: words beyond the end read as 0. -/
theorem getD_append_zeros (ws : List Word) (n k : Nat) :
    (ws ++ List.replicate n 0#32).getD k 0#32 = ws.getD k 0#32 := by
  by_cases hk : k < ws.length
  · exact List.getD_append _ _ _ _ hk
  · rw [List.getD_append_right _ _ _ _ (by omega), List.getD_eq_default ws _ (by omega), List.getD_eq_getElem?_getD,
      List.getElem?_getD_replicate_default_eq]

/-- Only the word that holds position `p` changes. -/
theorem orInto_getD (ws : List Word) (p : Nat) (b : Byte) (k : Nat) :
    (orInto ws p b).getD k 0#32 = if k = p / 4 then ws.getD k 0#32 ||| byteAt b p else ws.getD k 0#32 := by
  simp only [orInto, getD_append_zeros]
  split
  case isTrue h =>
    subst h
    rw [List.getD_eq_getElem?_getD, List.getElem?_set_self (by simp; omega), Option.getD_some]
  case isFalse h =>
    rw [List.getD_eq_getElem?_getD, List.getElem?_set_ne (Ne.symm h), ← List.getD_eq_getElem?_getD, getD_append_zeros]

/-! ### The bytes of a buffer (R131, R133) -/

theorem bufByte_of_ge {o : WordBuf} {i : Nat} (h : o.words.length * 4 ≤ i) : bufByte o i = 0#8 := by
  rw [bufByte, List.getD_eq_default _ _ (by omega), wordByte_zero]

/-- A clamped buffer reads 0 at every position past its significant bytes. -/
theorem bufClamped_iff (o : WordBuf) : bufClamped o ↔ ∀ i, o.sigBytes ≤ i → bufByte o i = 0#8 := by
  refine ⟨fun h i hi => ?_, fun h i hi _ => h i hi⟩
  by_cases hlt : i < o.words.length * 4
  · exact h i hi hlt
  · exact bufByte_of_ge (by omega)

/-- The appended byte shows at its own position only, ORed with what stood there (R132). -/
theorem bufByte_appendByte (s : WordBuf) (b : Byte) (i : Nat) :
    bufByte (appendByte s b) i = if i = s.sigBytes then bufByte s i ||| b else bufByte s i := by
  simp only [bufByte, appendByte, orInto_getD]
  by_cases hi : i = s.sigBytes
  · rw [if_pos (by rw [hi]), if_pos hi, wordByte_or, wordByte_byteAt_same _ _ _ (by rw [hi])]
  · rw [if_neg hi]
    split
    · rw [wordByte_or, wordByte_byteAt_ne _ _ _ (by omega), BitVec.or_zero]
    · rfl

@[simp] theorem bufBytes_length (o : WordBuf) : (bufBytes o).length = o.sigBytes := by simp [bufBytes]

/-! ### Appending to a covered and clamped buffer -/

/-- The buffer is covered and clamped (R130, R133), and denotes the byte sequence. -/
structure Denotes (o : WordBuf) (bs : List Byte) : Prop where
  covered : bufCovered o
  clamped : bufClamped o
  bytes : bufBytes o = bs

/-- One turn of the loop of R132: the byte is ORed into a zero position, the first past the significant bytes. -/
theorem Denotes.appendByte {s : WordBuf} {bs : List Byte} (h : Denotes s bs) (b : Byte) :
    Denotes (appendByte s b) (bs ++ [b]) where
  covered := by
    simp only [bufCovered, Machine.appendByte, orInto_length]
    omega
  clamped := (bufClamped_iff _).2 fun i (hi : s.sigBytes + 1 ≤ i) => by
    rw [bufByte_appendByte, if_neg (by omega)]
    exact (bufClamped_iff s).1 h.clamped i (by omega)
  bytes := by
    have hfirst : ∀ i ∈ List.range s.sigBytes, bufByte (Machine.appendByte s b) i = bufByte s i := fun i hi => by
      rw [bufByte_appendByte, if_neg (List.mem_range.1 hi).ne]
    have hlast : bufByte (Machine.appendByte s b) s.sigBytes = b := by
      rw [bufByte_appendByte, if_pos rfl, (bufClamped_iff s).1 h.clamped _ le_rfl, BitVec.zero_or]
    calc bufBytes (Machine.appendByte s b)
        = (List.range s.sigBytes).map (bufByte (Machine.appendByte s b))
            ++ [bufByte (Machine.appendByte s b) s.sigBytes] := by
          rw [bufBytes, Machine.appendByte, List.range_succ, List.map_append, List.map_singleton]
      _ = bs ++ [b] := by rw [List.map_congr_left hfirst, hlast, ← h.bytes, bufBytes]

theorem Denotes.foldl_appendByte {s : WordBuf} {bs : List Byte} (h : Denotes s bs) (cs : List Byte) :
    Denotes (cs.foldl Machine.appendByte s) (bs ++ cs) := by
  induction cs generalizing s bs with
  | nil => rwa [List.append_nil]
  | cons c cs ih => rw [List.append_cons]; exact ih (h.appendByte c)

theorem Denotes.appendBuf {s : WordBuf} {bs : List Byte} (h : Denotes s bs) (o : WordBuf) :
    Denotes (appendBuf s o) (bs ++ bufBytes o) := h.foldl_appendByte _

/-- Settles O15, by the loop of R132: every turn denotes one byte more. -/
theorem appendDenotesConcatenation : Obligations.AppendDenotesConcatenation := by
  intro s o hcovered hclamped
  obtain ⟨hcovered', hclamped', hbytes⟩ := Denotes.appendBuf ⟨hcovered, hclamped, rfl⟩ o
  refine ⟨hbytes, ?_, hcovered', hclamped'⟩
  rw [← bufBytes_length, hbytes, List.length_append, bufBytes_length, bufBytes_length]

/-- Settles O16: both ways denote the concatenation, which is associative. -/
theorem appendIsAssociative : Obligations.AppendIsAssociative := by
  intro a b c hacov haclamp hbcov hbclamp
  have ha : Denotes a (bufBytes a) := ⟨hacov, haclamp, rfl⟩
  have hb : Denotes b (bufBytes b) := ⟨hbcov, hbclamp, rfl⟩
  refine ⟨((ha.appendBuf b).appendBuf c).bytes, ?_⟩
  rw [(ha.appendBuf (Machine.appendBuf b c)).bytes, (hb.appendBuf c).bytes, List.append_assoc]

end Sys2Proof.Machine
end

section
/-! PROOFS. The bytes of a store, and `AbsorbByte` on a clamped buffer (spec/40_word_buffer.md R131, R134). -/

namespace Sys2Proof.Machine

/-! ### A store and its 128 bytes (R131) -/

@[simp] theorem storeBytes_length (ws : Vector Word 32) : (storeBytes ws).length = 128 := by
  simp [storeBytes, positions]

theorem storeBytes_getElem? (ws : Vector Word 32) (i : Fin 128) : (storeBytes ws)[i.val]? = some (storeByte ws i) := by
  simp [storeBytes, positions]

/-- A word is its four bytes, the most significant first (R75). -/
theorem wordBytes_append (w : Word) : wordByte w 0 ++ wordByte w 1 ++ wordByte w 2 ++ wordByte w 3 = w := by
  refine BitVec.eq_of_getLsbD_eq fun j hj => ?_
  simp only [BitVec.getLsbD_append]
  split_ifs <;> rw [getLsbD_wordByte _ _ _ (by omega)] <;> congr 1 <;> omega

/-- A store's bytes, by word and place in the word. -/
theorem storeBytes_getD (ws : Vector Word 32) (w : Fin 32) {k : Nat} (hk : k < 4) :
    (storeBytes ws).getD (4 * w.val + k) 0#8 = wordByte ws[w] k := by
  have hword : (4 * w.val + k) / 4 = w.val := by omega
  rw [List.getD_eq_getElem?_getD, storeBytes_getElem? ws ⟨4 * w.val + k, by omega⟩, Option.getD_some]
  simp only [storeByte, hword]
  exact wordByte_congr _ (by omega)

/-- The block of a store's bytes is the store: packing the bytes again gives the words. -/
theorem blockOf_storeBytes (ws : Vector Word 32) : blockOf (storeBytes ws) = ws := by
  refine Vector.ext fun i hi => ?_
  have hzero : (storeBytes ws).getD (4 * i) 0#8 = wordByte ws[i] 0 :=
    storeBytes_getD ws ⟨i, hi⟩ (k := 0) (by decide)
  have hbyte (k : Nat) (hk : k < 4) : (storeBytes ws).getD (4 * i + k) 0#8 = wordByte ws[i] k :=
    storeBytes_getD ws ⟨i, hi⟩ hk
  rw [blockOf, Vector.getElem_ofFn, hzero, hbyte 1 (by decide), hbyte 2 (by decide), hbyte 3 (by decide),
    wordBytes_append]

/-- A byte ORed in at the first unused position follows the bytes before it. -/
theorem take_storeBytes_orByte {ws : Vector Word 32} {p : Fin 128} (h : zeroFrom p.val ws) (b : Byte) :
    (storeBytes (orByte ws p b)).take (p.val + 1) = (storeBytes ws).take p.val ++ [b] := by
  have hfirst : (storeBytes (orByte ws p b)).take p.val = (storeBytes ws).take p.val := by
    refine List.ext_getElem? fun i => ?_
    by_cases hi : i < p.val
    · have hne : (⟨i, by omega⟩ : Fin 128) ≠ p := fun h => hi.ne (congrArg Fin.val h)
      rw [List.getElem?_take_of_lt hi, List.getElem?_take_of_lt hi, storeBytes_getElem? _ ⟨i, by omega⟩,
        storeBytes_getElem? ws ⟨i, by omega⟩, storeByte_orByte, if_neg hne]
    · simp [hi]
  have hlast : (storeBytes (orByte ws p b))[p.val]? = some b := by
    rw [storeBytes_getElem?, storeByte_orByte, if_pos rfl, h p le_rfl, BitVec.zero_or]
  rw [List.take_add_one, hfirst, hlast, Option.toList_some]

/-! ### `AbsorbByte` (R134) -/

/-- The whole store, once the byte at its last position is in. -/
theorem blockOf_pendingBytes_append {s : State} (h : Clamped s) (hfull : s.buflen.val = 127) (b : Byte) :
    blockOf (pendingBytes s ++ [b]) = orByte s.buf s.buflen b := by
  rw [pendingBytes, ← take_storeBytes_orByte h, hfull, List.take_of_length_le (by simp), blockOf_storeBytes]

theorem pendingBytes_absorbByte {s : State} (h : Clamped s) (hlt : s.buflen.val + 1 < 128) (b : Byte) :
    pendingBytes (absorbByte b s) = pendingBytes s ++ [b] := by
  rw [absorbByte_of_lt b s hlt]
  exact take_storeBytes_orByte h b

theorem sameOutside_absorbByte (b : Byte) (s : State) : SameOutside s (absorbByte b s) := by
  constructor <;> simp

/-- Settles O17, by the two cases of R134. -/
theorem absorbByteBuffersOrCompresses : Obligations.AbsorbByteBuffersOrCompresses := by
  intro b s hclamped
  have hlt128 := s.buflen.isLt
  refine ⟨?_, Clamped.absorbByte hclamped b, absorbByte_total b s, absorbByte_phase b s, absorbByte_mode b s,
    absorbByte_key b s, absorbByte_keyValid b s, sameOutside_absorbByte b s⟩
  split
  case isTrue hlt =>
    have hpending := pendingBytes_absorbByte hclamped (by omega) b
    have heq := absorbByte_of_lt b s (by omega)
    exact ⟨by rw [heq], by rw [heq], hpending, by rw [heq]⟩
  case isFalse hfull =>
    rw [blockOf_pendingBytes_append hclamped (by omega), absorbByte_of_full b s (by omega)]
    exact ⟨rfl, rfl, rfl⟩

end Sys2Proof.Machine
end

section
/-! PROOFS. Streaming equivalence: the state after a stream of data depends on its bytes only
(spec/40_word_buffer.md R136). -/

namespace Sys2Proof.Machine

/-! ### What absorbing bytes neither reads nor writes -/

/-- `KEY <- key`. -/
def setKey (key : Vector Word 32) (s : State) : State := { s with key := key }

/-- `PEND_DIN <- w`: how `execData` presents its datum. -/
def setPendDin (w : Word) (s : State) : State := { s with pendDin := w }

theorem absorbByte_countAppended (b : Byte) (d : List Byte) : Function.Commute (absorbByte b) (countAppended d) :=
  fun s => by simp only [absorbByte, countAppended_buflen]; split <;> rfl

theorem absorbByte_setKey (b : Byte) (key : Vector Word 32) : Function.Commute (absorbByte b) (setKey key) :=
  fun s => by unfold absorbByte setKey; split <;> rfl

theorem absorbByte_setPendDin (b : Byte) (w : Word) : Function.Commute (absorbByte b) (setPendDin w) :=
  fun s => by unfold absorbByte setPendDin; split <;> rfl

/-- An update that every absorbed byte can pass, a byte sequence can pass. -/
theorem absorbBytes_commute {u : State → State} (h : ∀ b, Function.Commute (absorbByte b) u) (bs : List Byte) :
    Function.Commute (absorbBytes bs) u := by
  intro s
  induction bs generalizing s with
  | nil => rfl
  | cons b bs ih => rw [absorbBytes_cons, h b s, ih, absorbBytes_cons]

theorem appendData_setKey (d : List Byte) (key : Vector Word 32) : Function.Commute (appendData d) (setKey key) :=
  fun s => congrArg (countAppended d) (absorbBytes_commute (absorbByte_setKey · key) d s)

theorem appendData_setPendDin (d : List Byte) (w : Word) : Function.Commute (appendData d) (setPendDin w) :=
  fun s => congrArg (countAppended d) (absorbBytes_commute (absorbByte_setPendDin · w) d s)

/-! ### Two appends are one -/

theorem countAppended_countAppended (p q : List Byte) (s : State) :
    countAppended q (countAppended p s) = countAppended (p ++ q) s := by
  have htotal : s.total + BitVec.ofNat 64 p.length + BitVec.ofNat 64 q.length
      = s.total + BitVec.ofNat 64 (p ++ q).length := by
    rw [List.length_append, BitVec.ofNat_add, BitVec.add_assoc]
  have hphase : (if q.isEmpty then (if p.isEmpty then s.phase else .accumulating) else .accumulating)
      = if (p ++ q).isEmpty then s.phase else .accumulating := by
    cases p <;> cases q <;> rfl
  simp only [countAppended, htotal, hphase]

/-- Bytes are absorbed one by one, and `TOTAL` and `PHASE` see only how many there are. -/
theorem appendData_appendData (p q : List Byte) (s : State) :
    appendData q (appendData p s) = appendData (p ++ q) s := by
  rw [appendData, appendData, absorbBytes_commute (absorbByte_countAppended · p), ← absorbBytes_append,
    countAppended_countAppended, appendData]

theorem appendData_nil (s : State) : appendData [] s = s := by
  simp [appendData, countAppended]

/-! ### Two pieces of a key are one -/

/-- What `KEY_UPDATE` does with its bytes (spec/44_hmac.md R302): the key store keeps them, and they are hashed. -/
def appendKeyData (d : List Byte) (s : State) : State := appendData d (storeKeyData d s)

theorem storeKeyBytes_append (p q : List Byte) (n : Nat) (key : Vector Word 32) :
    storeKeyBytes (p ++ q) n key = storeKeyBytes q (n + p.length) (storeKeyBytes p n key) := by
  induction p generalizing n key with
  | nil => rfl
  | cons b p ih =>
    rw [List.cons_append, storeKeyBytes, ih, storeKeyBytes, List.length_cons, Nat.add_assoc, Nat.add_comm 1]

theorem storeKeyData_eq_setKey (d : List Byte) (s : State) :
    storeKeyData d s = setKey (storeKeyBytes d s.total.toNat s.key) s := rfl

/-- Without overflow the second piece goes to the positions that follow the first. -/
theorem storeKeyData_appendKeyData {p : List Byte} {s : State} (h : s.total.toNat + p.length < 2 ^ 64) (q : List Byte) :
    storeKeyData q (appendKeyData p s) = appendData p (storeKeyData (p ++ q) s) := by
  have htotal : (appendKeyData p s).total.toNat = s.total.toNat + p.length := appendData_total_toNat h
  have hkey : (appendKeyData p s).key = storeKeyBytes p s.total.toNat s.key :=
    appendData_key p (storeKeyData p s)
  rw [storeKeyData_eq_setKey, htotal, hkey, ← storeKeyBytes_append, appendKeyData, ← appendData_setKey]
  rfl

theorem appendKeyData_appendKeyData {p : List Byte} {s : State} (h : s.total.toNat + p.length < 2 ^ 64)
    (q : List Byte) :
    appendKeyData q (appendKeyData p s) = appendKeyData (p ++ q) s := by
  rw [appendKeyData, storeKeyData_appendKeyData h, appendData_appendData, appendKeyData]

theorem appendKeyData_nil (s : State) : appendKeyData [] s = s := appendData_nil s

theorem appendKeyData_setPendDin (d : List Byte) (w : Word) : Function.Commute (appendKeyData d) (setPendDin w) :=
  fun s => appendData_setPendDin d w (storeKeyData d s)

/-! ### Streams of data commands -/

/-- A stream applies its commands' effect `f` to the bytes of each datum in turn. -/
theorem execStream_eq_foldl {cmd : BitVec 3 → Instr} {f : List Byte → State → State}
    (hexec : ∀ nb s, exec (cmd nb) s = .next (f (dataBytes s.pendDin nb) s))
    (hframe : ∀ d w, Function.Commute (f d) (setPendDin w)) (ds : List Datum) (s : State) (w : Word) :
    ∃ v, execStream cmd ds (setPendDin w s) =
      .next (setPendDin v (ds.foldl (fun u d => f (dataBytes d.1 d.2) u) s)) := by
  induction ds generalizing s w with
  | nil => exact ⟨w, rfl⟩
  | cons d ds ih =>
    have hfirst : execData (cmd d.2) d.1 (setPendDin w s) = .next (setPendDin d.1 (f (dataBytes d.1 d.2) s)) :=
      (hexec d.2 (setPendDin d.1 s)).trans (congrArg Host.Outcome.next (hframe _ d.1 s))
    rw [execStream, hfirst]
    exact ih _ d.1

theorem bytesOfStream_cons (d : Datum) (ds : List Datum) :
    bytesOfStream (d :: ds) = dataBytes d.1 d.2 ++ bytesOfStream ds := rfl

theorem foldl_appendData (ds : List Datum) (s : State) :
    ds.foldl (fun u d => appendData (dataBytes d.1 d.2) u) s = appendData (bytesOfStream ds) s := by
  induction ds generalizing s with
  | nil => exact (appendData_nil s).symm
  | cons d ds ih => rw [List.foldl_cons, ih, appendData_appendData, bytesOfStream_cons]

theorem foldl_appendKeyData {ds : List Datum} {s : State} (h : s.total.toNat + (bytesOfStream ds).length < 2 ^ 64) :
    ds.foldl (fun u d => appendKeyData (dataBytes d.1 d.2) u) s = appendKeyData (bytesOfStream ds) s := by
  induction ds generalizing s with
  | nil => exact (appendKeyData_nil s).symm
  | cons d ds ih =>
    rw [bytesOfStream_cons, List.length_append] at h
    have hfirst : s.total.toNat + (dataBytes d.1 d.2).length < 2 ^ 64 := by omega
    have htotal : (appendKeyData (dataBytes d.1 d.2) s).total.toNat = s.total.toNat + (dataBytes d.1 d.2).length :=
      appendData_total_toNat hfirst
    rw [List.foldl_cons, ih (by omega), appendKeyData_appendKeyData hfirst, bytesOfStream_cons]

/-- A stream of `UPDATE`s appends its bytes; only `PEND_DIN` can show how they were split. -/
theorem execStream_update (ds : List Datum) (s : State) :
    ∃ w, execStream .update ds s = .next (setPendDin w (appendData (bytesOfStream ds) s)) := by
  rw [← foldl_appendData]
  exact execStream_eq_foldl (fun _ _ => rfl) appendData_setPendDin ds s s.pendDin

/-- A stream of `KEY_UPDATE`s stores and appends its bytes, while `TOTAL` does not overflow. -/
theorem execStream_keyUpdate {ds : List Datum} {s : State} (h : s.total.toNat + (bytesOfStream ds).length < 2 ^ 64) :
    ∃ w, execStream .keyUpdate ds s = .next (setPendDin w (appendKeyData (bytesOfStream ds) s)) := by
  rw [← foldl_appendKeyData h]
  exact execStream_eq_foldl (fun _ _ => rfl) appendKeyData_setPendDin ds s s.pendDin

theorem sameDatapath_setPendDin (v w : Word) (s : State) : SameDatapath (setPendDin v s) (setPendDin w s) := by
  constructor <;> rfl

/-- Settles O18: what a stream leaves in the datapath is a function of its bytes. -/
theorem splitOfDataIsInvisible : Obligations.SplitOfDataIsInvisible := by
  refine ⟨appendData_appendData, fun ds es s hbytes => ?_, fun ds es s hbytes hfits => ?_⟩
  · obtain ⟨v, hds⟩ := execStream_update ds s
    obtain ⟨w, hes⟩ := execStream_update es s
    rw [hbytes] at hds
    exact ⟨_, _, hds, hes, sameDatapath_setPendDin v w _⟩
  · obtain ⟨v, hds⟩ := execStream_keyUpdate hfits
    obtain ⟨w, hes⟩ := execStream_keyUpdate (hbytes ▸ hfits)
    rw [hbytes] at hds
    exact ⟨_, _, hds, hes, sameDatapath_setPendDin v w _⟩

end Sys2Proof.Machine
end

section
/-! PROOFS. How many blocks the streaming procedures and the commands compress (spec/41_streaming.md R154, R161,
spec/44_hmac.md R308), by the draws that count them. -/

namespace Sys2Proof.Machine

/-! ### The streaming procedures -/

theorem absorbByte_draws (b : Byte) (s : State) :
    (absorbByte b s).draws = s.draws + (s.buflen.val + 1) / 128 := by
  have := s.buflen.isLt
  by_cases hlt : s.buflen.val + 1 < 128
  · rw [absorbByte_of_lt b s hlt, Nat.div_eq_of_lt hlt]; rfl
  · have hfull : s.buflen.val + 1 = 128 := by omega
    rw [absorbByte_of_full b s hlt, hfull]

/-- One block for every 128 bytes that have come together. -/
theorem absorbBytes_draws (bs : List Byte) (s : State) :
    (absorbBytes bs s).draws = s.draws + (s.buflen.val + bs.length) / 128 := by
  induction bs generalizing s with
  | nil => rw [absorbBytes_nil, List.length_nil, Nat.add_zero, Nat.div_eq_of_lt s.buflen.isLt, Nat.add_zero]
  | cons b bs ih =>
    rw [absorbBytes_cons, ih, absorbByte_draws, absorbByte_buflen, List.length_cons]
    omega

theorem paddingBytes_length (n bits : Nat) : (paddingBytes n bits).length = (239 - n) % 128 + 17 := by
  simp only [paddingBytes, List.length_append, List.length_cons, List.length_replicate, lengthBytes_length]

theorem pad_draws (s : State) : (pad s).draws = s.draws + if s.buflen.val ≤ 111 then 1 else 2 := by
  have := s.buflen.isLt
  rw [pad_eq_absorbBytes, absorbBytes_draws, paddingBytes_length]
  split <;> omega

/-- Settles O19: `Pad` absorbs the padding bytes, which fill one block or two. -/
theorem padEndsOnABlockBoundary : Obligations.PadEndsOnABlockBoundary := fun s =>
  ⟨pad_eq_absorbBytes s, Fin.ext (pad_buflen s), pad_total s, pad_draws s⟩

/-! ### The commands -/

theorem absorbInnerKey_draws (s : State) : (absorbInnerKey s).draws = s.draws + 1 := by
  rw [absorbInnerKey, appendData_draws, absorbBytes_draws, ipadKey_length, coreInit_buflen, coreInit_draws]
  rfl

theorem formKey_draws (s : State) :
    (formKey s).draws = s.draws + if s.total.toNat ≤ 128 then 0 else if s.buflen.val ≤ 111 then 1 else 2 := by
  unfold formKey
  by_cases hlong : 128 < s.total.toNat
  · rw [if_pos hlong, if_neg hlong.not_ge, storeDigestKey_draws, pad_draws]
  · rw [if_neg hlong, if_pos (not_lt.mp hlong), Nat.add_zero]

/-- The outer hash compresses two blocks: the padded key, and the inner digest with its padding. -/
theorem hmacFinal_draws (d : List Byte) (s : State) :
    (hmacFinal d s).draws = (pad (appendData d s)).draws + 2 := by
  simp only [hmacFinal, markFinalized_draws, pad_draws (appendData _ _), appendData_draws, appendData_buflen,
    absorbBytes_draws, absorbBytes_buflen, opadKey_length, digestBytes_length, coreInit_draws, coreInit_buflen]
  rfl

theorem pad_appendData_draws (d : List Byte) (s : State) :
    (pad (appendData d s)).draws = s.draws +
      ((s.buflen.val + d.length) / 128 + if (s.buflen.val + d.length) % 128 ≤ 111 then 1 else 2) := by
  rw [pad_draws, appendData_draws, appendData_buflen, absorbBytes_draws, absorbBytes_buflen, Nat.add_assoc]

/-- The data of one command can complete one block, and no more. -/
theorem add_dataBytes_length_div (s : State) (w : Word) (nb : BitVec 3) :
    (s.buflen.val + (dataBytes w nb).length) / 128 =
      if 128 ≤ s.buflen.val + (dataBytes w nb).length then 1 else 0 := by
  have hbuf := s.buflen.isLt
  have hdata : (dataBytes w nb).length ≤ 4 := by rw [dataBytes_length]; exact min_le_right _ _
  split <;> omega

/-- Settles O30: the count of each streaming procedure that the command runs. -/
theorem commandsCompressTheirBlocks : Obligations.CommandsCompressTheirBlocks := by
  intro nb s
  dsimp only
  rw [← add_dataBytes_length_div]
  refine ⟨⟨_, rfl, rfl⟩, ⟨_, rfl, rfl⟩, ⟨_, rfl, ?update⟩, ⟨_, rfl, ?keyUpdate⟩, fun hhash => ⟨_, if_pos hhash, ?hash⟩,
    fun hmac => ⟨_, if_neg (by rw [hmac]; decide), ?hmac⟩, ⟨_, rfl, ?hmacStart⟩, ⟨_, rfl, ?hmacReset⟩⟩
  case update => rw [appendData_draws, absorbBytes_draws]
  case keyUpdate => rw [appendData_draws, absorbBytes_draws, storeKeyData_draws, storeKeyData_buflen]
  case hash => rw [markFinalized_draws, pad_appendData_draws]
  case hmac => rw [hmacFinal_draws, pad_appendData_draws, Nat.add_assoc]
  case hmacStart =>
    rw [absorbInnerKey_draws, setMode_draws, validateKey_draws, formKey_draws]
    split <;> rfl
  case hmacReset => rw [setMode_draws, absorbInnerKey_draws]

end Sys2Proof.Machine
end

section
/-! PROOFS. The length field (spec/41_streaming.md R153). -/

namespace Sys2Proof.Machine

/-- The `n` low bytes of a number, most significant first. -/
def beBytes (v : Nat) : Nat → List Byte
  | 0 => []
  | n + 1 => BitVec.ofNat 8 (v >>> (8 * n)) :: beBytes v n

theorem lengthBytes_eq_beBytes (bits : Nat) : lengthBytes bits = beBytes bits 16 := rfl

/-- Reading the bytes as a big-endian number, after those read already. -/
theorem foldl_beBytes (v n a : Nat) :
    (beBytes v n).foldl (fun a b => a * 256 + b.toNat) a = a * 256 ^ n + v % 256 ^ n := by
  induction n generalizing a with
  | zero => simp [beBytes, Nat.mod_one]
  | succ n ih =>
    have hbyte : v >>> (8 * n) = v / 256 ^ n := by rw [Nat.shiftRight_eq_div_pow, Nat.pow_mul]
    rw [beBytes, List.foldl_cons, ih, BitVec.toNat_ofNat, hbyte, Nat.mod_pow_succ (b := 256)]
    ring

/-- The first eight bytes of sixteen are the low bytes of the number without its last eight. -/
theorem take_beBytes_sixteen (v : Nat) : (beBytes v 16).take 8 = beBytes (v >>> 64) 8 := by
  simp only [beBytes, ← Nat.shiftRight_add, List.take_succ_cons, List.take_zero]

theorem drop_beBytes_sixteen (v : Nat) : (beBytes v 16).drop 8 = beBytes v 8 := rfl

/-- Settles O20: sixteen bytes hold `8 * TOTAL` whole, and each half of them holds its part. -/
theorem lengthFieldIsEightTimesTotal : Obligations.LengthFieldIsEightTimesTotal := by
  intro total
  have hlt := total.isLt
  dsimp only
  rw [lengthBytes_eq_beBytes, take_beBytes_sixteen, drop_beBytes_sixteen]
  simp only [foldl_beBytes, Nat.shiftRight_eq_div_pow]
  refine ⟨rfl, ?_, ?_, ?_⟩ <;> omega

end Sys2Proof.Machine
end

section
/-! PROOFS. What absorbing a byte sequence computes, on a clamped buffer: the whole blocks are compressed, the rest
stays pending (spec/40_word_buffer.md R134, spec/41_streaming.md R151, R152). -/

namespace Sys2Proof.Machine

/-! ### The blocks of a byte sequence (R260) -/

/-- The bytes after the last whole block. -/
def afterBlocks (bs : List Byte) : List Byte := bs.drop (bs.length / 128 * 128)

theorem compressAll_of_lt {bs : List Byte} (hlt : bs.length < 128) (h : Vector Pair 8) : compressAll h bs = h := by
  rw [compressAll, Nat.div_eq_of_lt hlt]
  rfl

theorem afterBlocks_of_lt {bs : List Byte} (hlt : bs.length < 128) : afterBlocks bs = bs := by
  rw [afterBlocks, Nat.div_eq_of_lt hlt, Nat.zero_mul, List.drop_zero]

theorem length_block_append_div {blk : List Byte} (hblk : blk.length = 128) (bs : List Byte) :
    (blk ++ bs).length / 128 = bs.length / 128 + 1 := by
  rw [List.length_append, hblk, Nat.add_div_left _ (by decide)]

theorem compressAll_block_append {blk : List Byte} (hblk : blk.length = 128) (bs : List Byte) (h : Vector Pair 8) :
    compressAll h (blk ++ bs) = compressAll (compress h (blockOf blk)) bs := by
  rw [compressAll, length_block_append_div hblk, pieces, List.take_left' hblk, List.drop_left' hblk]
  rfl

theorem afterBlocks_block_append {blk : List Byte} (hblk : blk.length = 128) (bs : List Byte) :
    afterBlocks (blk ++ bs) = afterBlocks bs := by
  rw [afterBlocks, length_block_append_div hblk, Nat.add_one_mul, Nat.add_comm, ← List.drop_drop,
    List.drop_left' hblk, afterBlocks]

/-! ### Absorbing -/

theorem pendingBytes_length (s : State) : (pendingBytes s).length = s.buflen.val := by
  rw [pendingBytes, List.length_take, storeBytes_length, min_eq_left s.buflen.isLt.le]

theorem pendingBytes_of_buflen_zero {s : State} (h : s.buflen.val = 0) : pendingBytes s = [] := by
  rw [pendingBytes, h, List.take_zero]

/-- On a clamped buffer, the pending bytes and the new ones are one sequence: its whole blocks go into `H`, and what
is left is pending. -/
theorem absorbBytes_of_clamped {s : State} (h : Clamped s) (bs : List Byte) :
    (absorbBytes bs s).h = compressAll s.h (pendingBytes s ++ bs) ∧
      pendingBytes (absorbBytes bs s) = afterBlocks (pendingBytes s ++ bs) := by
  induction bs generalizing s with
  | nil =>
    have hlt : (pendingBytes s).length < 128 := pendingBytes_length s ▸ s.buflen.isLt
    rw [List.append_nil, compressAll_of_lt hlt, afterBlocks_of_lt hlt]
    exact ⟨rfl, rfl⟩
  | cons b bs ih =>
    obtain ⟨hdigest, hpending⟩ := ih (h.absorbByte b)
    rw [absorbBytes_cons, hdigest, hpending, List.append_cons]
    by_cases hlt : s.buflen.val + 1 < 128
    · rw [pendingBytes_absorbByte h hlt, absorbByte_of_lt b s hlt]
      exact ⟨rfl, rfl⟩
    · have hfull : s.buflen.val = 127 := by have := s.buflen.isLt; omega
      have hblk : (pendingBytes s ++ [b]).length = 128 := by
        rw [List.length_append, pendingBytes_length, hfull, List.length_singleton]
      have hnone : pendingBytes (absorbByte b s) = [] :=
        pendingBytes_of_buflen_zero (by rw [absorbByte_buflen, hfull])
      rw [hnone, List.nil_append, compressAll_block_append hblk, afterBlocks_block_append hblk,
        blockOf_pendingBytes_append h hfull, absorbByte_of_full b s hlt]
      exact ⟨rfl, rfl⟩

theorem absorbBytes_scratch_of_lt {bs : List Byte} {s : State} (hlt : s.buflen.val + bs.length < 128) :
    (absorbBytes bs s).scratch = s.scratch := by
  induction bs generalizing s with
  | nil => rfl
  | cons b bs ih =>
    rw [List.length_cons] at hlt
    rw [absorbBytes_cons, ih (by rw [absorbByte_buflen]; omega), absorbByte_of_lt b s (by omega)]

/-! ### Appending -/

theorem pendingBytes_appendData (d : List Byte) (s : State) :
    pendingBytes (appendData d s) = pendingBytes (absorbBytes d s) := by
  rw [pendingBytes, appendData_buf, appendData_buflen, pendingBytes]

theorem sameOutside_appendData (d : List Byte) (s : State) : SameOutside s (appendData d s) := by
  constructor <;> simp

/-- `AppendData` of at most a block on a clamped buffer (R151). -/
theorem appends_appendData {s : State} (h : Clamped s) {d : List Byte} (hd : d.length ≤ 128) :
    Appends d s (appendData d s) := by
  obtain ⟨hdigest, hpending⟩ := absorbBytes_of_clamped h d
  have hlen : (pendingBytes s ++ d).length = s.buflen.val + d.length := by
    rw [List.length_append, pendingBytes_length]
  refine ⟨appendData_total d s, ?phase, ?buflen, h.appendData d, fun hlt => ?partly, fun hfull => ?completed⟩
  case phase => simp only [appendData_phase, List.isEmpty_iff]
  case buflen => rw [appendData_buflen, absorbBytes_buflen]
  case partly =>
    rw [← hlen] at hlt
    rw [compressAll_of_lt hlt] at hdigest
    rw [afterBlocks_of_lt hlt] at hpending
    rw [appendData_h, appendData_scratch, pendingBytes_appendData]
    exact ⟨hdigest, absorbBytes_scratch_of_lt (hlen ▸ hlt), hpending⟩
  case completed =>
    have hblk : ((pendingBytes s ++ d).take 128).length = 128 := by rw [List.length_take]; omega
    have hrest : ((pendingBytes s ++ d).drop 128).length < 128 := by
      have := s.buflen.isLt
      rw [List.length_drop]
      omega
    rw [← List.take_append_drop 128 (pendingBytes s ++ d)] at hdigest hpending
    rw [compressAll_block_append hblk, compressAll_of_lt hrest] at hdigest
    rw [afterBlocks_block_append hblk, afterBlocks_of_lt hrest] at hpending
    rw [appendData_h, pendingBytes_appendData]
    exact ⟨hdigest, hpending⟩

theorem dataBytes_eq_nil_iff (w : Word) (nb : BitVec 3) : dataBytes w nb = [] ↔ nb = 0#3 := by
  rw [← List.length_eq_zero_iff, dataBytes_length, BitVec.toNat_eq, BitVec.toNat_ofNat]
  omega

/-- Settles O22: the data of one command is less than a block. -/
theorem updateAppendsItsBytes : Obligations.UpdateAppendsItsBytes := by
  intro nb s hclamped
  have hlen : (dataBytes s.pendDin nb).length ≤ 128 := by rw [dataBytes_length]; omega
  refine ⟨_, rfl, appends_appendData hclamped hlen, fun hnb => ?_, appendData_mode _ s, appendData_key _ s,
    appendData_keyValid _ s, sameOutside_appendData _ s⟩
  rw [(dataBytes_eq_nil_iff s.pendDin nb).mpr hnb, appendData_nil]

/-! ### Finishing a hash (R152, R157) -/

theorem eq_zeroStore_of_zeroFrom_zero {ws : Vector Word 32} (h : zeroFrom 0 ws) : ws = zeroStore := by
  have hbytes : storeBytes ws = storeBytes zeroStore :=
    List.map_congr_left fun i _ => (h i (Nat.zero_le _)).trans (storeByte_zeroStore i).symm
  rw [← blockOf_storeBytes ws, hbytes, blockOf_storeBytes]

theorem pad_buf {s : State} (h : Clamped s) : (pad s).buf = zeroStore := by
  have hclamped : zeroFrom (pad s).buflen.val (pad s).buf := h.pad
  rw [pad_buflen] at hclamped
  exact eq_zeroStore_of_zeroFrom_zero hclamped

/-- The pending bytes, the data and the padding are one sequence of whole blocks. -/
theorem pad_appendData_h {s : State} (h : Clamped s) (d : List Byte) :
    (pad (appendData d s)).h =
      compressAll s.h (pendingBytes s ++ d ++ paddingBytes ((pendingBytes s ++ d).length % 128)
        (8 * (s.total + BitVec.ofNat 64 d.length).toNat)) := by
  rw [pad_eq_absorbBytes, appendData_buflen, absorbBytes_buflen, appendData_total, List.length_append,
    pendingBytes_length, appendData, absorbBytes_commute (absorbByte_countAppended · d), countAppended_h,
    ← absorbBytes_append, (absorbBytes_of_clamped h _).1, List.append_assoc]

/-- Settles O23: `Pad` after the append leaves the buffer empty, and the rest is the frame of both. -/
theorem finalFinishesTheHash : Obligations.FinalFinishesTheHash := by
  intro nb s hmode hclamped
  refine ⟨_, if_pos hmode, ?digest, ?buf, ?buflen, ?total, markFinalized_phase _, ?mode, ?key, ?keyValid, ?outside⟩
  case digest => rw [markFinalized_h, pad_appendData_h hclamped]
  case buf => rw [markFinalized_buf, pad_buf (Clamped.appendData hclamped _)]
  case buflen => rw [markFinalized_buflen]; exact Fin.ext (pad_buflen _)
  case total => rw [markFinalized_total, pad_total, appendData_total]
  case mode => rw [markFinalized_mode, pad_mode, appendData_mode]
  case key => rw [markFinalized_key, pad_key, appendData_key]
  case keyValid => rw [markFinalized_keyValid, pad_keyValid, appendData_keyValid]
  case outside => constructor <;> simp

end Sys2Proof.Machine
end

section
/-! PROOFS. The transitions of `MODE` and `PHASE` (spec/41_streaming.md R155, R159, R160). -/

namespace Sys2Proof.Machine

/-- Settles O21: `CoreInit`, then `MODE <- HASH`. -/
theorem initStartsANewHash : Obligations.InitStartsANewHash :=
  ⟨rfl, fun _ => ⟨rfl, rfl⟩⟩

theorem onCmdWrite_of_refused {i : Instr} {e : ErrCode} {s : State} (hbusy : s.busy = false) (hwf : i.wf = true)
    (he : acceptError i s = some e) : onCmdWrite (encode i) s = raiseError e s := by
  simp only [onCmdWrite, hbusy, decode_encode hwf, he, Bool.false_eq_true, if_false]

/-- Settles O37: the words decode, and outside `MODE = KEY` the phase is the first test that refuses. -/
theorem finalizedReuseIsRefused : Obligations.FinalizedReuseIsRefused := by
  intro nb s hnb hbusy hmode hphase
  have hwf : nbOk nb = true := decide_eq_true hnb
  have hrefused : acceptError (.update nb) s = some .finalized := by
    rw [acceptError, if_neg hmode, if_pos hphase]
  exact ⟨onCmdWrite_of_refused (i := .update nb) hbusy hwf hrefused,
    onCmdWrite_of_refused (i := .final nb) hbusy hwf hrefused⟩

theorem acceptError_hmacStart_eq_none_iff (s : State) : acceptError .hmacStart s = none ↔ s.mode = .key := by
  simp [acceptError]

theorem appendData_dataBytes_phase (w : Word) (nb : BitVec 3) (s : State) :
    (appendData (dataBytes w nb) s).phase = if nb = 0#3 then s.phase else .accumulating := by
  simp only [appendData_phase, List.isEmpty_iff, dataBytes_eq_nil_iff]

/-- Settles O39: acceptance and the invariants give the fields before, the command's effect the fields after. -/
theorem modePhaseTransitions : Obligations.ModePhaseTransitions := by
  refine ⟨fun i s hs ha => ?_, fun w s => ⟨(sameDatapath_onCmdWrite w s).mode, (sameDatapath_onCmdWrite w s).phase⟩⟩
  cases i with
  | init => exact ⟨_, rfl, rfl, rfl⟩
  | update nb =>
    obtain ⟨hmode, hphase, -⟩ := (acceptError_update_eq_none_iff nb s).1 ha
    exact ⟨_, rfl, hmode, hphase, appendData_mode _ s, appendData_dataBytes_phase _ nb s⟩
  | final nb =>
    obtain ⟨hmode, hphase, -⟩ := (acceptError_final_eq_none_iff nb s).1 ha
    obtain ⟨t, ht⟩ := exec_next (.final nb) s
    refine ⟨t, ht, hmode, hphase, ?_⟩
    obtain ⟨-, rfl⟩ | ⟨-, rfl⟩ := exec_final_next ht <;> simp
  | keyBegin => exact ⟨_, rfl, rfl, rfl⟩
  | keyUpdate nb =>
    obtain ⟨hmode, -⟩ := (acceptError_keyUpdate_eq_none_iff nb s).1 ha
    exact ⟨_, rfl, hmode, (hs.key_mode hmode).1, (appendData_mode _ _).trans hmode,
      appendData_dataBytes_phase _ nb (storeKeyData _ s)⟩
  | hmacStart =>
    have hmode := (acceptError_hmacStart_eq_none_iff s).1 ha
    exact ⟨_, rfl, hmode, (hs.key_mode hmode).1, absorbInnerKey_mode _, absorbInnerKey_phase _⟩
  | hmacReset =>
    have hvalid := (acceptError_hmacReset_eq_none_iff s).1 ha
    have hmode : s.mode ≠ .key := fun hkey => by simp [(hs.key_mode hkey).2] at hvalid
    exact ⟨_, rfl, hmode, setMode_mode _ _, absorbInnerKey_phase s⟩

end Sys2Proof.Machine
end

section
/-! PROOFS. The 64-bit values of the pair operations (spec/42_pair_arith.md R200 to R217). -/

namespace Sys2Proof.Machine

/-! ### Values (R200) -/

theorem pairVal_toNat (p : Pair) : (pairVal p).toNat = p.hi.toNat * 2 ^ 32 + p.lo.toNat := by
  rw [pairVal, BitVec.toNat_append, ← Nat.shiftLeft_add_eq_or_of_lt p.lo.isLt, Nat.shiftLeft_eq]

theorem pairVal_injective : Function.Injective pairVal := by
  rintro ⟨ahi, alo⟩ ⟨bhi, blo⟩ hval
  have hnat := congrArg BitVec.toNat hval
  simp only [pairVal_toNat] at hnat
  have hhi : ahi = bhi := by bv_omega
  have hlo : alo = blo := by bv_omega
  rw [hhi, hlo]

theorem pairVal_default : pairVal default = 0 := rfl

/-! ### Addition (R201 to R204) -/

theorem word_add_lt_right_iff (a b : Word) : a + b < b ↔ 2 ^ 32 ≤ a.toNat + b.toNat := by
  rw [BitVec.lt_def, BitVec.toNat_add]
  omega

theorem add64_lo (a b : Pair) : (add64 a b).lo = a.lo + b.lo := rfl

theorem add64_hi (a b : Pair) :
    (add64 a b).hi = a.hi + b.hi + if 2 ^ 32 ≤ a.lo.toNat + b.lo.toNat then 1#32 else 0#32 := by
  simp only [add64, BitVec.ult_iff_lt, word_add_lt_right_iff]

/-- Settles O7: the low sum wraps exactly when it falls below an addend, and addition of words commutes. -/
theorem carryIsTheLowHalfOverflow : Obligations.CarryIsTheLowHalfOverflow := by
  refine fun a b => ⟨word_add_lt_right_iff a.lo b.lo, ?_, add64_hi a b⟩
  rw [add64_lo, BitVec.add_comm, word_add_lt_right_iff, Nat.add_comm]

/-- The carry is the quotient of the low sum by 2^32, and the high half adds it. -/
@[simp] theorem pairVal_add64 (a b : Pair) : pairVal (add64 a b) = pairVal a + pairVal b := by
  apply BitVec.eq_of_toNat_eq
  simp only [BitVec.toNat_add, pairVal_toNat, add64_lo, add64_hi]
  split <;> simp only [BitVec.toNat_ofNat] <;> omega

theorem add64_comm (a b : Pair) : add64 a b = add64 b a :=
  pairVal_injective (by rw [pairVal_add64, pairVal_add64, BitVec.add_comm])

theorem add64_assoc (a b c : Pair) : add64 (add64 a b) c = add64 a (add64 b c) :=
  pairVal_injective (by simp only [pairVal_add64, BitVec.add_assoc])

theorem zero_add64 (a : Pair) : add64 ⟨0#32, 0#32⟩ a = a :=
  pairVal_injective ((pairVal_add64 _ a).trans (BitVec.zero_add _))

/-- Settles O6: values are added mod 2^64, and a pair is determined by its value. -/
theorem pairAdditionIsModular : Obligations.PairAdditionIsModular :=
  fun a b c => ⟨pairVal_add64 a b, add64_comm a b, add64_assoc a b c⟩

theorem add64_right_comm (a b c : Pair) : add64 (add64 a b) c = add64 (add64 a c) b := by
  rw [add64_assoc, add64_comm b, add64_assoc]

theorem pairVal_sum64_cons (x : Pair) (xs : List Pair) :
    pairVal (sum64 (x :: xs)) = (xs.map pairVal).foldl (· + ·) (pairVal x) := by
  rw [sum64, List.foldl_map]
  exact (List.foldl_hom pairVal fun u y => (pairVal_add64 u y).symm).symm

theorem sum64_eq_foldl_zero (xs : List Pair) : sum64 xs = xs.foldl add64 ⟨0#32, 0#32⟩ := by
  cases xs with
  | nil => rfl
  | cons x xs => rw [sum64, List.foldl_cons, zero_add64]

theorem sum64_eq_of_perm {xs ys : List Pair} (hperm : ys.Perm xs) : sum64 ys = sum64 xs := by
  rw [sum64_eq_foldl_zero, sum64_eq_foldl_zero]
  exact hperm.foldl_eq' (fun a _ b _ u => add64_right_comm u a b) _

/-- Settles O8: the value of the fold is the fold of the values, and the pairs of a fold may change places. -/
theorem pairSumIgnoresOrder : Obligations.PairSumIgnoresOrder :=
  fun x xs => ⟨pairVal_sum64_cons x xs, fun _ hperm => sum64_eq_of_perm hperm⟩

/-! ### Bitwise operations (R205) -/

@[simp] theorem pairVal_xor64 (x y : Pair) : pairVal (xor64 x y) = pairVal x ^^^ pairVal y :=
  BitVec.xor_append.symm

@[simp] theorem pairVal_and64 (x y : Pair) : pairVal (and64 x y) = pairVal x &&& pairVal y :=
  BitVec.and_append.symm

@[simp] theorem pairVal_not64 (x : Pair) : pairVal (not64 x) = ~~~pairVal x :=
  BitVec.not_append.symm

/-! ### Rotations and the shift (R206 to R210) -/

/-- The half formula of R206 also gives R207's results for 0 and 32. -/
theorem rotr64_of_le (x : Pair) (n : Fin 64) (hn : n.val ≤ 32) :
    rotr64 x n =
      ⟨x.hi >>> n.val ||| x.lo <<< (32 - n.val), x.lo >>> n.val ||| x.hi <<< (32 - n.val)⟩ := by
  unfold rotr64
  split
  case isTrue h0 => simp [h0]
  case isFalse h0 =>
    split
    case isTrue hlt => rfl
    case isFalse hge =>
      have h32 : n.val = 32 := by omega
      simp [h32, BitVec.ushiftRight_eq_zero]

theorem rotr64_of_gt (x : Pair) (n : Fin 64) (hn : 32 < n.val) :
    rotr64 x n =
      ⟨x.lo >>> (n.val - 32) ||| x.hi <<< (64 - n.val), x.hi >>> (n.val - 32) ||| x.lo <<< (64 - n.val)⟩ := by
  rw [rotr64, if_neg (by omega), if_neg (by omega), if_neg (by omega)]

/-- A right shift that takes its upper bits from another word: every half of R206, R208 and R210, and the 64-bit
rotation, is one. -/
theorem shiftRight_or_shiftLeft_getLsbD {w : Nat} (a b : BitVec w) {n m : Nat} (hn : n ≤ w) (hm : m < w) :
    (a >>> n ||| b <<< (w - n)).getLsbD m = if m + n < w then a.getLsbD (m + n) else b.getLsbD (m + n - w) := by
  rw [BitVec.getLsbD_or, BitVec.getLsbD_ushiftRight, BitVec.getLsbD_shiftLeft, Nat.add_comm n m]
  split
  case isTrue hlow =>
    have hin : m < w - n := by omega
    simp [hin]
  case isFalse hhigh =>
    have hout : ¬ m < w - n := by omega
    have hplace : m - (w - n) = m + n - w := by omega
    rw [BitVec.getLsbD_of_ge a (m + n) (by omega), hplace]
    simp [hm, hout]

theorem nativeRotr_getLsbD (v : BitVec 64) {n m : Nat} (hn : n ≤ 64) (hm : m < 64) :
    (nativeRotr v n).getLsbD m = v.getLsbD ((m + n) % 64) := by
  rw [nativeRotr, shiftRight_or_shiftLeft_getLsbD _ _ hn hm]
  split
  case isTrue hlow => rw [Nat.mod_eq_of_lt hlow]
  case isFalse hhigh => rw [Nat.mod_eq_sub_mod (by omega), Nat.mod_eq_of_lt (by omega)]

theorem pairVal_rotatedHalves_getLsbD (hi lo : Word) {n m : Nat} (hn : n ≤ 32) (hm : m < 64) :
    (pairVal ⟨hi >>> n ||| lo <<< (32 - n), lo >>> n ||| hi <<< (32 - n)⟩).getLsbD m =
      (pairVal ⟨hi, lo⟩).getLsbD ((m + n) % 64) := by
  simp only [pairVal_getLsbD]
  by_cases hlow : m < 32
  · rw [if_pos hlow, shiftRight_or_shiftLeft_getLsbD _ _ hn hlow]
    grind
  · rw [if_neg hlow, shiftRight_or_shiftLeft_getLsbD _ _ hn (by omega)]
    grind

theorem pairVal_swap_getLsbD (hi lo : Word) {m : Nat} (hm : m < 64) :
    (pairVal ⟨lo, hi⟩).getLsbD m = (pairVal ⟨hi, lo⟩).getLsbD ((m + 32) % 64) := by
  simp only [pairVal_getLsbD]
  grind

/-- Bit by bit: rotating the halves by up to 32 turns the value, and R208's form does so after a swap (R207). -/
@[simp] theorem pairVal_rotr64 (x : Pair) (n : Fin 64) : pairVal (rotr64 x n) = nativeRotr (pairVal x) n.val := by
  apply BitVec.eq_of_getLsbD_eq
  intro m hm
  rw [nativeRotr_getLsbD _ n.isLt.le hm]
  by_cases hn : n.val ≤ 32
  · rw [rotr64_of_le x n hn, pairVal_rotatedHalves_getLsbD _ _ hn hm]
  · have hsub : 64 - n.val = 32 - (n.val - 32) := by omega
    have hround : ((m + (n.val - 32)) % 64 + 32) % 64 = (m + n.val) % 64 := by omega
    rw [rotr64_of_gt x n (Nat.lt_of_not_le hn), hsub, pairVal_rotatedHalves_getLsbD _ _ (by omega) hm,
      pairVal_swap_getLsbD _ _ (Nat.mod_lt _ (by decide)), hround]

/-- A rotation left by `n` is one right by `64 - n`; by 0 it is none (R209). -/
theorem pairVal_rotl64 (x : Pair) (n : Fin 64) :
    pairVal (rotl64 x n) = pairVal x <<< n.val ||| pairVal x >>> (64 - n.val) := by
  rw [rotl64, pairVal_rotr64, nativeRotr]
  by_cases hn : n.val = 0
  · simp [hn, BitVec.ushiftRight_eq_zero]
  · have hmod : (64 - n.val) % 64 = 64 - n.val := Nat.mod_eq_of_lt (by omega)
    have hback : 64 - (64 - n.val) = n.val := by omega
    simp only [hmod, hback, BitVec.or_comm]

@[simp] theorem pairVal_shr64 (x : Pair) (n : Fin 32) : pairVal (shr64 x n) = pairVal x >>> n.val := by
  apply BitVec.eq_of_getLsbD_eq
  intro m hm
  simp only [shr64, BitVec.getLsbD_ushiftRight, pairVal_getLsbD]
  by_cases hlow : m < 32
  · rw [if_pos hlow, shiftRight_or_shiftLeft_getLsbD _ _ n.isLt.le hlow]
    grind
  · rw [if_neg hlow, if_neg (by omega), Nat.add_sub_assoc (by omega)]

/-- Settles O9: bit `m` of the result is the value's bit `m + n`, counted round for a rotation. -/
theorem rotationsAndShiftAreNative : Obligations.RotationsAndShiftAreNative :=
  fun x => ⟨pairVal_rotr64 x, pairVal_rotl64 x, pairVal_shr64 x⟩

/-! ### The six SHA-512 functions (R211 to R216) -/

theorem pairVal_twoRotationsAndShift (x : Pair) (l m : Fin 64) (n : Fin 32) :
    pairVal (xor64 (xor64 (rotr64 x l) (rotr64 x m)) (shr64 x n)) =
      nativeRotr (pairVal x) l.val ^^^ nativeRotr (pairVal x) m.val ^^^ (pairVal x >>> n.val) := by
  rw [pairVal_xor64, pairVal_xor64, pairVal_rotr64, pairVal_rotr64, pairVal_shr64]

theorem pairVal_threeRotations (x : Pair) (l m n : Fin 64) :
    pairVal (xor64 (xor64 (rotr64 x l) (rotr64 x m)) (rotr64 x n)) =
      nativeRotr (pairVal x) l.val ^^^ nativeRotr (pairVal x) m.val ^^^ nativeRotr (pairVal x) n.val := by
  rw [pairVal_xor64, pairVal_xor64, pairVal_rotr64, pairVal_rotr64, pairVal_rotr64]

@[simp] theorem pairVal_smallSigma0 (x : Pair) :
    pairVal (smallSigma0 x) = nativeRotr (pairVal x) 1 ^^^ nativeRotr (pairVal x) 8 ^^^ (pairVal x >>> 7) :=
  pairVal_twoRotationsAndShift x 1 8 7

@[simp] theorem pairVal_smallSigma1 (x : Pair) :
    pairVal (smallSigma1 x) = nativeRotr (pairVal x) 19 ^^^ nativeRotr (pairVal x) 61 ^^^ (pairVal x >>> 6) :=
  pairVal_twoRotationsAndShift x 19 61 6

@[simp] theorem pairVal_bigSigma0 (x : Pair) :
    pairVal (bigSigma0 x) = nativeRotr (pairVal x) 28 ^^^ nativeRotr (pairVal x) 34 ^^^ nativeRotr (pairVal x) 39 :=
  pairVal_threeRotations x 28 34 39

@[simp] theorem pairVal_bigSigma1 (x : Pair) :
    pairVal (bigSigma1 x) = nativeRotr (pairVal x) 14 ^^^ nativeRotr (pairVal x) 18 ^^^ nativeRotr (pairVal x) 41 :=
  pairVal_threeRotations x 14 18 41

@[simp] theorem pairVal_ch (x y z : Pair) :
    pairVal (ch x y z) = (pairVal x &&& pairVal y) ^^^ (~~~pairVal x &&& pairVal z) := by
  rw [ch, pairVal_xor64, pairVal_and64, pairVal_and64, pairVal_not64]

@[simp] theorem pairVal_maj (x y z : Pair) :
    pairVal (maj x y z) =
      (pairVal x &&& pairVal y) ^^^ (pairVal x &&& pairVal z) ^^^ (pairVal y &&& pairVal z) := by
  rw [maj, pairVal_xor64, pairVal_xor64, pairVal_and64, pairVal_and64, pairVal_and64]

theorem nativeRotr_eq_rotateRight (v : BitVec 64) {n : Nat} (hn : n < 64) : nativeRotr v n = v.rotateRight n := by
  rw [BitVec.rotateRight_def, Nat.mod_eq_of_lt hn, nativeRotr]

/-- Settles O10: each function is built of operations whose values are native. -/
theorem mixingFunctionsAreNative : Obligations.MixingFunctionsAreNative := by
  refine fun x y z => ⟨?_, ?_, ?_, ?_, pairVal_ch x y z, pairVal_maj x y z⟩
  · simp only [pairVal_smallSigma0, nativeRotr_eq_rotateRight, Nat.reduceLT]
  · simp only [pairVal_smallSigma1, nativeRotr_eq_rotateRight, Nat.reduceLT]
  · simp only [pairVal_bigSigma0, nativeRotr_eq_rotateRight, Nat.reduceLT]
  · simp only [pairVal_bigSigma1, nativeRotr_eq_rotateRight, Nat.reduceLT]

end Sys2Proof.Machine
end

section
/-! PROOFS. The message schedule, and the compression in native 64-bit arithmetic (spec/42_pair_arith.md R217,
spec/43_compression.md R252 to R257). -/

namespace Sys2Proof.Machine

/-! ### The schedule's recurrence (R253) -/

theorem extendWords_succ (n : Nat) (ws : List Pair) :
    extendWords (n + 1) ws = nextWord (extendWords n ws) :: extendWords n ws := by
  induction n generalizing ws with
  | zero => rfl
  | succ n ih => exact ih (nextWord ws :: ws)

@[simp] theorem extendWords_length (n : Nat) (ws : List Pair) : (extendWords n ws).length = ws.length + n := by
  induction n with
  | zero => rfl
  | succ n ih => rw [extendWords_succ, List.length_cons, ih, Nat.add_assoc]

theorem extendWords_getElem? (n : Nat) (ws : List Pair) {j : Nat} (hj : j < n) :
    (extendWords n ws)[j]? = some (nextWord ((extendWords n ws).drop (j + 1))) := by
  induction n generalizing j with
  | zero => omega
  | succ n ih =>
    rw [extendWords_succ]
    cases j with
    | zero => rfl
    | succ j => exact ih (Nat.lt_of_succ_lt_succ hj)

@[simp] theorem schedule_length (blk : Vector Word 32) : (schedule blk).length = 80 := by
  rw [schedule, List.length_reverse, extendWords_length]
  rfl

/-- The schedule stands in `extendWords` newest first, so the words that `W[t + 16]` is made of follow it there. -/
theorem schedule_getElem?_add_sixteen (blk : Vector Word 32) {t : Nat} (ht : t < 64) :
    (schedule blk)[t + 16]? = some (sum64 [smallSigma1 ((schedule blk).getD (t + 14) default),
      (schedule blk).getD (t + 9) default, smallSigma0 ((schedule blk).getD (t + 1) default),
      (schedule blk).getD t default]) := by
  have hlength : (extendWords 64 (firstWords blk)).length = 80 := extendWords_length 64 (firstWords blk)
  have hback : ∀ k, k < 16 → (schedule blk).getD (t + k) default =
      ((extendWords 64 (firstWords blk)).drop (63 - t + 1)).getD (15 - k) default := by
    intro k hk
    rw [schedule, List.getD_reverse _ (by omega), hlength, List.getD_eq_getElem?_getD, List.getD_eq_getElem?_getD,
      List.getElem?_drop]
    congr 3
    omega
  have hplace : 80 - 1 - (t + 16) = 63 - t := by omega
  rw [hback 14 (by decide), hback 9 (by decide), hback 1 (by decide), ← Nat.add_zero t, hback 0 (by decide)]
  rw [schedule, List.getElem?_reverse (by omega), hlength, Nat.add_zero, hplace, extendWords_getElem? _ _ (by omega)]
  rfl

theorem pairVal_nextWord_sum (w2 w7 w15 w16 : Pair) :
    pairVal (sum64 [smallSigma1 w2, w7, smallSigma0 w15, w16]) =
      nativeNext (pairVal w2) (pairVal w7) (pairVal w15) (pairVal w16) := by
  rw [pairVal_sum64_cons, pairVal_smallSigma1]
  simp only [List.map_cons, List.map_nil, List.foldl_cons, List.foldl_nil, pairVal_smallSigma0]
  rfl

theorem pairVal_schedule_getElem?_add_sixteen (blk : Vector Word 32) {t : Nat} (ht : t < 64) :
    let ws := (schedule blk).map pairVal
    ws[t + 16]? =
      some (nativeNext (ws.getD (t + 14) 0) (ws.getD (t + 9) 0) (ws.getD (t + 1) 0) (ws.getD t 0)) := by
  simp only [List.getElem?_map, schedule_getElem?_add_sixteen blk ht, Option.map_some, pairVal_nextWord_sum,
    ← pairVal_default, List.getD_map]

/-! ### The rounds (R255) -/

theorem nativeOf_roundStep (v : Work) (k w : Pair) :
    nativeOf (roundStep v k w) = nativeRound (nativeOf v) (pairVal k) (pairVal w) := by
  simp only [nativeOf, roundStep, nativeRound, pairVal_add64, pairVal_sum64_cons, List.map_cons, List.map_nil,
    List.foldl_cons, List.foldl_nil, pairVal_bigSigma0, pairVal_bigSigma1, pairVal_ch, pairVal_maj]

theorem nativeOf_rounds (v : Work) (ks ws : List Pair) :
    nativeOf (rounds v ks ws) =
      ((ks.map pairVal).zip (ws.map pairVal)).foldl (fun u kw => nativeRound u kw.1 kw.2) (nativeOf v) := by
  rw [rounds, List.zip_map, List.foldl_map]
  exact (List.foldl_hom nativeOf fun u kw => (nativeOf_roundStep u kw.1 kw.2).symm).symm

/-! ### The final addition (R256) -/

theorem addDigest_values (hin : Vector Pair 8) (v : Work) :
    (addDigest hin v).toList.map pairVal =
      [pairVal hin[0] + (nativeOf v).a, pairVal hin[1] + (nativeOf v).b, pairVal hin[2] + (nativeOf v).c,
       pairVal hin[3] + (nativeOf v).d, pairVal hin[4] + (nativeOf v).e, pairVal hin[5] + (nativeOf v).f,
       pairVal hin[6] + (nativeOf v).g, pairVal hin[7] + (nativeOf v).h] := by
  simp only [nativeOf, ← pairVal_add64]
  rfl

/-- Settles O12: the values of every stage, the schedule's words, the rounds and the final sums, are native. -/
theorem compressionIsNative : Obligations.CompressionIsNative := by
  intro hin blk
  refine ⟨fun t => pairVal_schedule_getElem?_add_sixteen blk t.isLt, rfl, ?_, ?_⟩
  · rw [List.length_map, schedule_length]
  · rw [compress, addDigest_values, nativeOf_rounds]

end Sys2Proof.Machine
end

section
/-! PROOFS. The first sixteen words of the message schedule (spec/43_compression.md R252). -/

namespace Sys2Proof.Machine

/-- Extending puts new words in front only. -/
theorem extendWords_getElem?_add (n : Nat) (ws : List Pair) (j : Nat) : (extendWords n ws)[n + j]? = ws[j]? := by
  induction n with
  | zero => rw [Nat.zero_add]; rfl
  | succ n ih => rw [extendWords_succ, Nat.add_right_comm, List.getElem?_cons_succ, ih]

/-- The list of R252 holds the block's words newest first. -/
theorem firstWords_getElem?_rev (blk : Vector Word 32) (t : Fin 16) :
    (firstWords blk)[15 - t.val]? = some (blockWord blk t) := by
  have hplace : ([15, 14, 13, 12, 11, 10, 9, 8, 7, 6, 5, 4, 3, 2, 1, 0] : List (Fin 16))[15 - t.val]? = some t := by
    decide +revert
  rw [firstWords, List.getElem?_map, hplace, Option.map_some]

/-- `W[t]` for `t < 16` is the block's word `t`. -/
theorem schedule_getElem?_of_lt_sixteen (blk : Vector Word 32) (t : Fin 16) :
    (schedule blk)[t.val]? = some (blockWord blk t) := by
  have hlength : (extendWords 64 (firstWords blk)).length = 80 := extendWords_length 64 (firstWords blk)
  have hplace : 80 - 1 - t.val = 64 + (15 - t.val) := by omega
  rw [schedule, List.getElem?_reverse (by omega), hlength, hplace, extendWords_getElem?_add, firstWords_getElem?_rev]

theorem schedule_getElem?_eq_getD (blk : Vector Word 32) {t : Nat} (ht : t < 80) :
    (schedule blk)[t]? = some ((schedule blk).getD t default) := by
  rw [List.getD_eq_getElem _ _ (schedule_length blk ▸ ht), List.getElem?_eq_getElem]

/-- Settles O11: the sixteen oldest words are the block's, and each later one is made of four words that exist. -/
theorem scheduleFollowsRecurrence : Obligations.ScheduleFollowsRecurrence := by
  refine fun blk => ⟨schedule_length blk, schedule_getElem?_of_lt_sixteen blk, fun t => ?_⟩
  exact ⟨_, _, _, _, schedule_getElem?_eq_getD blk (by omega), schedule_getElem?_eq_getD blk (by omega),
    schedule_getElem?_eq_getD blk (by omega), schedule_getElem?_eq_getD blk (by omega),
    schedule_getElem?_add_sixteen blk t.isLt⟩

end Sys2Proof.Machine
end

section
/-! PROOFS. The constant tables are fractional parts of roots of primes (spec/43_compression.md R250, R251). -/

namespace Sys2Proof.Machine

/-- `n = floor(p^(1/e) * 2^64)`, in integers. -/
def IsScaledRoot (e p n : Nat) : Prop := n ^ e ≤ p * 2 ^ (64 * e) ∧ p * 2 ^ (64 * e) < (n + 1) ^ e

/-- The integer part of the `e`-th root of `p`, where it is below 8, as it is for every prime of R250 and R251. -/
def rootPart (e p : Nat) : Nat := Nat.findGreatest (fun k => k ^ e ≤ p) 7

theorem iv_isScaledRoot (i : Fin 8) :
    let p := [2, 3, 5, 7, 11, 13, 17, 19].getD i.val 0
    IsScaledRoot 2 p (rootPart 2 p * 2 ^ 64 + (pairVal iv[i]).toNat) := by
  unfold IsScaledRoot
  decide +revert

/-- Settles O13: the integer part of the square root puts each element between the bounds. -/
theorem initialDigestIsSquareRoots : Obligations.InitialDigestIsSquareRoots :=
  fun i => ⟨_, iv_isScaledRoot i⟩

/-- The primes below 410, in order. -/
def primesBelow410 : List Nat := [
  2, 3, 5, 7, 11, 13, 17, 19, 23, 29, 31, 37, 41, 43, 47, 53, 59, 61, 67, 71,
  73, 79, 83, 89, 97, 101, 103, 107, 109, 113, 127, 131, 137, 139, 149, 151, 157, 163, 167, 173,
  179, 181, 191, 193, 197, 199, 211, 223, 227, 229, 233, 239, 241, 251, 257, 263, 269, 271, 277, 281,
  283, 293, 307, 311, 313, 317, 331, 337, 347, 349, 353, 359, 367, 373, 379, 383, 389, 397, 401, 409]

/-- Trial division, done once: 21 bounds the divisors to try, as 21 * 21 is above 410. -/
theorem trialDivision_eq_primesBelow410 :
    ((List.range 410).filter fun n =>
      decide (2 ≤ n) && (List.range 21).all fun d => d < 2 || d == n || n % d != 0) = primesBelow410 := by
  decide

theorem roundConstants_isScaledRoot (t : Fin 80) :
    let p := primesBelow410.getD t.val 0
    IsScaledRoot 3 p (rootPart 3 p * 2 ^ 64 + (pairVal (roundConstants.getD t.val default)).toNat) := by
  unfold IsScaledRoot
  decide +revert

/-- Settles O14: the list of primes, then the integer part of the cube root for each constant. -/
theorem roundConstantsAreCubeRoots : Obligations.RoundConstantsAreCubeRoots := by
  unfold Obligations.RoundConstantsAreCubeRoots
  rw [trialDivision_eq_primesBelow410]
  exact ⟨rfl, rfl, fun t => ⟨_, roundConstants_isScaledRoot t⟩⟩

end Sys2Proof.Machine
end

section
/-! PROOFS. A hash from `INIT` to `FINAL` (spec/41_streaming.md R155 to R158, spec/43_compression.md R260). -/

namespace Sys2Proof.Machine

/-- `Pad` after an append to a fresh core finishes SHA-512 of what was appended. -/
theorem pad_appendData_h_of_fresh {s : State} (hclamped : Clamped s) (hdigest : s.h = iv)
    (hbuflen : s.buflen.val = 0) (htotal : s.total = 0#64) {m : List Byte} (hm : m.length < 2 ^ 64) :
    (pad (appendData m s)).h = sha512 m := by
  have hbits : (0#64 + BitVec.ofNat 64 m.length).toNat = m.length := by
    rw [BitVec.zero_add, BitVec.toNat_ofNat, Nat.mod_eq_of_lt hm]
  rw [pad_appendData_h hclamped, pendingBytes_of_buflen_zero hbuflen, List.nil_append, hdigest, htotal, hbits]
  rfl

/-- A stream of `UPDATE`s, seen by the command that comes next with its datum `w`. -/
theorem execStream_update_setPendDin (ds : List Datum) (w : Word) (s : State) :
    ∃ u, execStream .update ds s = .next u ∧ setPendDin w u = appendData (bytesOfStream ds) (setPendDin w s) := by
  obtain ⟨v, hstream⟩ := execStream_update ds s
  exact ⟨_, hstream, (appendData_setPendDin (bytesOfStream ds) w s).symm⟩

/-- The data of a stream of `UPDATE`s and of the `FINAL` after it are one append. -/
theorem execStream_update_final {s : State} (hmode : s.mode = .hash) (ds : List Datum) (w : Word) (nb : BitVec 3) :
    ∃ u, execStream .update ds s = .next u ∧ execData (.final nb) w u =
      .next (markFinalized (pad (appendData (bytesOfStream ds ++ dataBytes w nb) (setPendDin w s)))) := by
  obtain ⟨u, hstream, hlatched⟩ := execStream_update_setPendDin ds w s
  have hhash : (setPendDin w u).mode = .hash := by rw [hlatched, appendData_mode]; exact hmode
  have hfinal : execData (.final nb) w u = .next (markFinalized (pad (appendData (dataBytes w nb) (setPendDin w u)))) :=
    if_pos hhash
  rw [hlatched, appendData_appendData] at hfinal
  exact ⟨u, hstream, hfinal⟩

/-- Settles O31: `INIT` leaves a fresh core, to which stream and `FINAL` append the message before `Pad`. -/
theorem streamedHashIsSha512 : Obligations.StreamedHashIsSha512 := by
  intro ds w nb s m hm
  have hclamped : Clamped (setPendDin w (setMode .hash (coreInit s))) := clamped_coreInit s
  have hzero : (setPendDin w (setMode .hash (coreInit s))).total.toNat = 0 := rfl
  obtain ⟨u, hstream, hfinal⟩ := execStream_update_final (setMode_mode .hash (coreInit s)) ds w nb
  refine ⟨_, u, _, rfl, hstream, hfinal, ?digest, markFinalized_phase _, ?mode, ?buflen, ?total⟩
  case digest => rw [markFinalized_h, pad_appendData_h_of_fresh hclamped rfl rfl rfl hm]
  case mode => rw [markFinalized_mode, pad_mode, appendData_mode]; rfl
  case buflen => rw [markFinalized_buflen]; exact Fin.ext (pad_buflen _)
  case total =>
    rw [markFinalized_total, pad_total, appendData_total_toNat (by rwa [hzero, Nat.zero_add]), hzero, Nat.zero_add]

end Sys2Proof.Machine
end

section
/-! PROOFS. The key store as a byte sequence: what `KEY_UPDATE` stores, and a digest as a key (spec/44_hmac.md R302
to R304). -/

namespace Sys2Proof.Machine

/-! ### What `KEY_UPDATE` stores (R302) -/

/-- One key byte goes to the first unused position, where the store has it. -/
theorem storeByte_storeKeyBytes_singleton {p : Nat} {key : Vector Word 32} (h : zeroFrom p key) (b : Byte)
    (i : Fin 128) : storeByte (storeKeyBytes [b] p key) i = if i.val = p then b else storeByte key i := by
  simp only [storeKeyBytes]
  split
  case isTrue hp =>
    simp only [storeByte_orByte, Fin.ext_iff]
    split
    case isTrue hi => rw [h i hi.ge, BitVec.zero_or]
    case isFalse => rfl
  case isFalse hp => rw [if_neg (by omega)]

/-- Byte `j` goes to position `p + j`, where the store has one. -/
theorem storeByte_storeKeyBytes (d : List Byte) {p : Nat} {key : Vector Word 32} (h : zeroFrom p key) (i : Fin 128) :
    storeByte (storeKeyBytes d p key) i =
      if p ≤ i.val ∧ i.val < p + d.length then d.getD (i.val - p) 0#8 else storeByte key i := by
  induction d generalizing p key with
  | nil => rw [storeKeyBytes, List.length_nil, if_neg (by omega)]
  | cons b d ih =>
    have hrest : storeKeyBytes (b :: d) p key = storeKeyBytes d (p + 1) (storeKeyBytes [b] p key) := rfl
    have hnext : zeroFrom (p + 1) (storeKeyBytes [b] p key) := zeroFrom_storeKeyBytes [b] h
    rw [hrest, ih hnext, storeByte_storeKeyBytes_singleton h, List.length_cons]
    rcases Nat.lt_trichotomy i.val p with hbefore | hhere | hafter
    · rw [if_neg (by omega), if_neg (by omega), if_neg (by omega)]
    · rw [if_neg (by omega), if_pos hhere, if_pos (by omega), hhere, Nat.sub_self, List.getD_cons_zero]
    · have hplace : i.val - p = i.val - (p + 1) + 1 := by omega
      have hrange : p + 1 ≤ i.val ∧ i.val < p + 1 + d.length ↔ p ≤ i.val ∧ i.val < p + (d.length + 1) := by
        omega
      rw [hplace, List.getD_cons_succ, if_neg hafter.ne', if_congr hrange rfl rfl]

/-- A store's bytes are known position by position. -/
theorem storeBytes_eq_of_getElem? {ws : Vector Word 32} {bs : List Byte} (hlen : bs.length = 128)
    (h : ∀ i : Fin 128, bs[i.val]? = some (storeByte ws i)) : storeBytes ws = bs := by
  refine List.ext_getElem? fun i => ?_
  by_cases hi : i < 128
  · exact (storeBytes_getElem? ws ⟨i, hi⟩).trans (h ⟨i, hi⟩).symm
  · rw [List.getElem?_eq_none (by rw [storeBytes_length]; omega), List.getElem?_eq_none (by omega)]

/-- A key that fits the store stands in it, and zeros follow (R304). -/
theorem storeBytes_storeKeyBytes {k : List Byte} (hk : k.length ≤ 128) :
    storeBytes (storeKeyBytes k 0 zeroStore) = k ++ List.replicate (128 - k.length) 0#8 := by
  refine storeBytes_eq_of_getElem? (by rw [List.length_append, List.length_replicate]; omega) fun i => ?_
  rw [storeByte_storeKeyBytes k (zeroFrom_zeroStore 0), storeByte_zeroStore, Nat.sub_zero, Nat.zero_add]
  by_cases hi : i.val < k.length
  · rw [if_pos ⟨Nat.zero_le _, hi⟩, List.getElem?_append_left hi, List.getD_eq_getElem k _ hi,
      List.getElem?_eq_getElem]
  · rw [if_neg (by omega), List.getElem?_append_right (by omega), List.getElem?_replicate_of_lt (by omega)]

/-! ### A digest as a key (R303) -/

/-- A store's bytes are its words' bytes, word by word (R75). -/
theorem storeBytes_eq_flatMap (ws : Vector Word 32) : storeBytes ws = ws.toList.flatMap bytesOfWord := by
  refine storeBytes_eq_of_getElem? (by simp [List.length_flatMap]) fun i => ?_
  have hplace : i.val = 4 * (i.val / 4) + i.val % 4 := (Nat.div_add_mod _ 4).symm
  have hword : i.val / 4 < 32 := by omega
  have hbyte : i.val % 4 < 4 := Nat.mod_lt _ (by decide)
  rw [hplace, getElem?_flatMap_of_length bytesOfWord_length _ _ hbyte, Vector.getElem?_toList,
    Vector.getElem?_eq_getElem hword, Option.bind_some, bytesOfWord_getElem? _ hbyte, storeByte,
    wordByte_congr _ (Nat.mod_mod _ 4)]

/-- The digest's words in order, then zeros. -/
theorem keyOfDigest_toList (h : Vector Pair 8) :
    (keyOfDigest h).toList = (h.toList.flatMap fun p => [p.hi, p.lo]) ++ List.replicate 16 0#32 := by
  match h with
  | ⟨⟨[_, _, _, _, _, _, _, _]⟩, _⟩ => rfl

theorem storeBytes_keyOfDigest (h : Vector Pair 8) :
    storeBytes (keyOfDigest h) = digestBytes h ++ List.replicate 64 0#8 := by
  rw [storeBytes_eq_flatMap, keyOfDigest_toList, List.flatMap_append, List.flatMap_assoc]
  rfl

end Sys2Proof.Machine
end

section
/-! PROOFS. The commands of a MAC, each from any state: their effect on the core, and their frame (spec/44_hmac.md R301
to R307). -/

namespace Sys2Proof.Machine

/-! ### `KEY_BEGIN` (R301) -/

/-- Settles O25: the command's word, and its arm, both as defined. -/
theorem keyBeginStartsAnEmptyKey : Obligations.KeyBeginStartsAnEmptyKey :=
  ⟨rfl, fun _ => ⟨rfl, rfl⟩⟩

/-! ### `KEY_UPDATE` (R302) -/

/-- Storing key bytes moves `KEY` only, so the append is the same with or without it. -/
theorem appends_appendKeyData {s : State} (h : Clamped s) {d : List Byte} (hd : d.length ≤ 128) :
    Appends d s (appendKeyData d s) := by
  obtain ⟨htotal, hphase, hbuflen, hclamped, hpartly, hcompleted⟩ :=
    appends_appendData (s := storeKeyData d s) h hd
  exact ⟨htotal, hphase, hbuflen, hclamped, hpartly, hcompleted⟩

theorem appendKeyData_key (d : List Byte) (s : State) :
    (appendKeyData d s).key = storeKeyBytes d s.total.toNat s.key := by
  rw [appendKeyData, appendData_key, storeKeyData_key]

theorem sameOutside_appendKeyData (d : List Byte) (s : State) : SameOutside s (appendKeyData d s) := by
  constructor <;> simp [appendKeyData]

/-- Settles O26: the stored positions and the append do not touch each other. -/
theorem keyUpdateStoresAndHashes : Obligations.KeyUpdateStoresAndHashes := by
  intro nb s hbuf hkey
  have hlen : (dataBytes s.pendDin nb).length ≤ 128 := by rw [dataBytes_length]; omega
  refine ⟨appendKeyData (dataBytes s.pendDin nb) s, rfl, appends_appendKeyData hbuf hlen, fun i => ?key,
    appendData_mode _ _, appendData_keyValid _ _, sameOutside_appendKeyData _ s⟩
  case key => rw [appendKeyData_key, storeByte_storeKeyBytes _ hkey]

/-! ### The inner padded key (R305) -/

/-- XOR with a pad, byte by byte over the store's bytes. -/
theorem paddedBytes_eq_map (ws : Vector Word 32) (p : Byte) : paddedBytes ws p = (storeBytes ws).map (· ^^^ p) :=
  List.map_map.symm

theorem compressAll_block {blk : List Byte} (hblk : blk.length = 128) (h : Vector Pair 8) :
    compressAll h blk = compress h (blockOf blk) := by
  have hone := compressAll_block_append hblk [] h
  rwa [List.append_nil, compressAll_of_lt (bs := []) (by decide)] at hone

theorem Clamped.buf_eq_zeroStore {s : State} (h : Clamped s) (hbuflen : s.buflen.val = 0) : s.buf = zeroStore :=
  eq_zeroStore_of_zeroFrom_zero (hbuflen ▸ h)

/-- The padded key is one block, compressed from `IV`. -/
theorem absorbInnerKey_h (s : State) :
    (absorbInnerKey s).h = compress iv (blockOf ((storeBytes s.key).map (· ^^^ ipadByte))) := by
  have hnone : pendingBytes (coreInit s) = [] := pendingBytes_of_buflen_zero rfl
  rw [absorbInnerKey, appendData_h, (absorbBytes_of_clamped (clamped_coreInit s) _).1, hnone, List.nil_append,
    compressAll_block (ipadKey_length s), ipadKey, paddedBytes_eq_map, coreInit_h]

theorem absorbInnerKey_buf (s : State) : (absorbInnerKey s).buf = zeroStore :=
  (clamped_absorbInnerKey s).buf_eq_zeroStore (absorbInnerKey_buflen s)

theorem absorbInnerKey_buflen_eq_zero (s : State) : (absorbInnerKey s).buflen = 0 :=
  Fin.ext (absorbInnerKey_buflen s)

/-! ### `HMAC_RESET` (R306) -/

theorem sameOutside_hmacReset (s : State) : SameOutside s (setMode .hmac (absorbInnerKey s)) := by
  constructor <;> simp

/-- Settles O28: the core after absorbing the inner key, and the frame of the two updates. -/
theorem hmacResetRestartsTheMac : Obligations.HmacResetRestartsTheMac := by
  refine fun s => ⟨_, rfl, ?h, ?buf, ?buflen, ?total, ?phase, setMode_mode _ _, ?key, ?keyValid,
    sameOutside_hmacReset s⟩
  case h => rw [setMode_h, absorbInnerKey_h, ipadByte]
  case buf => rw [setMode_buf, absorbInnerKey_buf]
  case buflen => rw [setMode_buflen, absorbInnerKey_buflen_eq_zero]
  case total => rw [setMode_total, absorbInnerKey_total]
  case phase => rw [setMode_phase, absorbInnerKey_phase]
  case key => rw [setMode_key, absorbInnerKey_key]
  case keyValid => rw [setMode_keyValid, absorbInnerKey_keyValid]

/-- What `HMAC_RESET` leaves in the datapath depends on `KEY` and `KEY_VALID` only. -/
theorem sameDatapath_hmacReset {s u : State} (hmode : s.mode = .hmac) (hkey : u.key = s.key)
    (hvalid : u.keyValid = s.keyValid) : SameDatapath (absorbInnerKey s) (setMode .hmac (absorbInnerKey u)) where
  h := by rw [setMode_h, absorbInnerKey_h, absorbInnerKey_h, hkey]
  buf := by rw [setMode_buf, absorbInnerKey_buf, absorbInnerKey_buf]
  buflen := by rw [setMode_buflen, absorbInnerKey_buflen_eq_zero, absorbInnerKey_buflen_eq_zero]
  total := by rw [setMode_total, absorbInnerKey_total, absorbInnerKey_total]
  phase := by rw [setMode_phase, absorbInnerKey_phase, absorbInnerKey_phase]
  mode := by rw [setMode_mode, absorbInnerKey_mode, hmode]
  key := by rw [setMode_key, absorbInnerKey_key, absorbInnerKey_key, hkey]
  keyValid := by rw [setMode_keyValid, absorbInnerKey_keyValid, absorbInnerKey_keyValid, hvalid]

/-- Settles O29: both commands end by absorbing the inner key, under the same key. -/
theorem hmacResetEqualsHmacStart : Obligations.HmacResetEqualsHmacStart := by
  intro s t u hstart hkey hvalid
  obtain rfl := exec_hmacStart_next hstart
  rw [absorbInnerKey_key] at hkey
  exact ⟨_, rfl, sameDatapath_hmacReset rfl hkey hvalid⟩

/-! ### `HMAC_START` (R303) -/

/-- `Pad` compresses the pending bytes and the padding. -/
theorem pad_h {s : State} (h : Clamped s) :
    (pad s).h = compressAll s.h (pendingBytes s ++ paddingBytes s.buflen.val (8 * s.total.toNat)) := by
  rw [pad_eq_absorbBytes, (absorbBytes_of_clamped h _).1]

theorem formKey_key (s : State) :
    (formKey s).key = if s.total.toNat ≤ 128 then s.key else keyOfDigest (pad s).h := by
  unfold formKey
  by_cases hlong : 128 < s.total.toNat
  · rw [if_pos hlong, if_neg hlong.not_ge, storeDigestKey_key]
  · rw [if_neg hlong, if_pos (not_lt.mp hlong)]

/-- `HMAC_START` leaves the key it formed. -/
theorem hmacStart_key (s : State) :
    (absorbInnerKey (setMode .hmac (validateKey (formKey s)))).key = (formKey s).key := by
  rw [absorbInnerKey_key, setMode_key, validateKey_key]

theorem sameOutside_hmacStart (s : State) :
    SameOutside s (absorbInnerKey (setMode .hmac (validateKey (formKey s)))) := by
  constructor <;> simp

/-- Settles O27: the two cases of the formed key, then the core after absorbing the inner key. -/
theorem hmacStartAbsorbsTheInnerKey : Obligations.HmacStartAbsorbsTheInnerKey := by
  intro s hclamped
  refine ⟨_, rfl, ?key, ?h, absorbInnerKey_buf _, absorbInnerKey_buflen_eq_zero _, absorbInnerKey_total _,
    absorbInnerKey_phase _, absorbInnerKey_mode _, absorbInnerKey_keyValid _, sameOutside_hmacStart s⟩
  case key =>
    rw [hmacStart_key, formKey_key]
    split
    case isTrue => rfl
    case isFalse => rw [storeBytes_keyOfDigest, pad_h hclamped]
  case h => rw [absorbInnerKey_h, absorbInnerKey_key, ipadByte]

/-! ### `FINAL` in `MODE = HMAC` (R307) -/

theorem paddedKey_append_digest_length (key : Vector Word 32) (p : Byte) (h : Vector Pair 8) :
    ((storeBytes key).map (· ^^^ p) ++ digestBytes h).length = 192 := by
  rw [List.length_append, List.length_map, storeBytes_length, digestBytes_length]

/-- The outer hash is SHA-512 of the padded key and the inner digest: both appends go to a fresh core. -/
theorem hmacFinal_h (d : List Byte) (s : State) :
    (hmacFinal d s).h =
      sha512 ((storeBytes s.key).map (· ^^^ opadByte) ++ digestBytes (pad (appendData d s)).h) := by
  have hkey : opadKey (pad (appendData d s)) = (storeBytes s.key).map (· ^^^ opadByte) := by
    rw [opadKey, paddedBytes_eq_map, pad_key, appendData_key]
  simp only [hmacFinal, markFinalized_h, appendData_appendData, hkey]
  exact pad_appendData_h_of_fresh (clamped_coreInit _) rfl rfl rfl (by rw [paddedKey_append_digest_length]; decide)

theorem hmacFinal_buf (d : List Byte) (s : State) : (hmacFinal d s).buf = zeroStore :=
  (clamped_hmacFinal d s).buf_eq_zeroStore (hmacFinal_buflen d s)

theorem sameOutside_hmacFinal (d : List Byte) (s : State) : SameOutside s (hmacFinal d s) := by
  constructor <;> simp

/-- Settles O24: the inner digest is the pending bytes', the data's and the padding's; the outer hash takes it in. -/
theorem finalFinishesTheMac : Obligations.FinalFinishesTheMac := by
  intro nb s hmode hclamped
  refine ⟨_, if_neg (by rw [hmode]; decide), ?h, hmacFinal_buf _ s, Fin.ext (hmacFinal_buflen _ s),
    hmacFinal_total _ s, hmacFinal_phase _ s, hmacFinal_mode _ s, hmacFinal_key _ s, hmacFinal_keyValid _ s,
    sameOutside_hmacFinal _ s⟩
  case h =>
    rw [hmacFinal_h, pad_appendData_h hclamped, sha512, paddedKey_append_digest_length, opadByte]

end Sys2Proof.Machine
end

section
/-! PROOFS. A key and a MAC from `KEY_BEGIN` to `FINAL` (spec/44_hmac.md R300, R304, R309). -/

namespace Sys2Proof.Machine

/-! ### The key (R304) -/

/-- The state after `KEY_BEGIN`, from which a key is stored and hashed. -/
def keyBegun (s : State) : State := setMode .key (clearKey (coreInit s))

theorem appendKeyData_total_toNat {k : List Byte} {s : State} (h : s.total.toNat + k.length < 2 ^ 64) :
    (appendKeyData k s).total.toNat = s.total.toNat + k.length :=
  appendData_total_toNat (s := storeKeyData k s) h

/-- Hashing a whole key after `KEY_BEGIN` gives its SHA-512. -/
theorem pad_appendKeyData_keyBegun_h {k : List Byte} (hk : k.length < 2 ^ 64) (w : Word) (s : State) :
    (pad (setPendDin w (appendKeyData k (keyBegun s)))).h = sha512 k := by
  have hclamped : Clamped (storeKeyData k (setPendDin w (keyBegun s))) := clamped_coreInit s
  rw [← appendKeyData_setPendDin, appendKeyData]
  exact pad_appendData_h_of_fresh hclamped rfl rfl rfl hk

/-- `HMAC_START` forms K0 of the whole key, on either side of the block size. -/
theorem storeBytes_formKey_keyBegun {k : List Byte} (hk : k.length < 2 ^ 64) (w : Word) (s : State) :
    storeBytes (formKey (setPendDin w (appendKeyData k (keyBegun s)))).key = keyZero k := by
  have hzero : (keyBegun s).total.toNat = 0 := rfl
  have htotal : (setPendDin w (appendKeyData k (keyBegun s))).total.toNat = k.length :=
    (appendKeyData_total_toNat (by omega)).trans (by omega)
  have hkey : (setPendDin w (appendKeyData k (keyBegun s))).key = storeKeyBytes k 0 zeroStore :=
    appendKeyData_key k (keyBegun s)
  rw [formKey_key, htotal, hkey, pad_appendKeyData_keyBegun_h hk, keyZero]
  by_cases hshort : k.length ≤ 128
  · rw [if_pos hshort, if_neg hshort.not_gt, storeBytes_storeKeyBytes hshort]
  · rw [if_neg hshort, if_pos (not_le.mp hshort), storeBytes_keyOfDigest, sha512Bytes]

/-- The three commands of a key complete, and end with the inner key absorbed under K0. -/
theorem exec_key {ks : List Datum} (hk : (bytesOfStream ks).length < 2 ^ 64) (s : State) :
    ∃ u c, execStream .keyUpdate ks (keyBegun s) = .next u ∧ exec .hmacStart u = .next (absorbInnerKey c) ∧
      storeBytes c.key = keyZero (bytesOfStream ks) ∧ c.mode = .hmac ∧ c.keyValid = true := by
  have hzero : (keyBegun s).total.toNat = 0 := rfl
  obtain ⟨w, hstream⟩ := execStream_keyUpdate (ds := ks) (s := keyBegun s) (by omega)
  exact ⟨_, _, hstream, rfl, storeBytes_formKey_keyBegun hk w s, rfl, rfl⟩

/-- Settles O32: absorbing the inner key leaves K0 and `KEY_VALID`. -/
theorem streamedKeyBecomesKeyZero : Obligations.StreamedKeyBecomesKeyZero := by
  intro ks s hk
  obtain ⟨u, c, hstream, hstart, hkey, -, hvalid⟩ := exec_key hk s
  exact ⟨_, u, _, rfl, hstream, hstart, by rw [absorbInnerKey_key, hkey], by rw [absorbInnerKey_keyValid, hvalid]⟩

/-! ### The message (R309) -/

@[simp] theorem setPendDin_key (w : Word) (s : State) : (setPendDin w s).key = s.key := rfl
@[simp] theorem setPendDin_mode (w : Word) (s : State) : (setPendDin w s).mode = s.mode := rfl

/-- An append and the data of the `FINAL` after it are one append. -/
theorem hmacFinal_appendData (p q : List Byte) (s : State) : hmacFinal q (appendData p s) = hmacFinal (p ++ q) s := by
  simp only [hmacFinal, appendData_appendData]

/-- A stream of `UPDATE`s and the `FINAL` after it finish the MAC of all their data. -/
theorem execStream_update_finalMac {s : State} (hmode : s.mode = .hmac) (ds : List Datum) (w : Word) (nb : BitVec 3) :
    ∃ u, execStream .update ds s = .next u ∧ execData (.final nb) w u =
      .next (hmacFinal (bytesOfStream ds ++ dataBytes w nb) (setPendDin w s)) := by
  obtain ⟨u, hstream, hlatched⟩ := execStream_update_setPendDin ds w s
  have hmac : (setPendDin w u).mode ≠ .hash := by
    rw [hlatched, appendData_mode, setPendDin_mode, hmode]; decide
  have hfinal : execData (.final nb) w u = .next (hmacFinal (dataBytes w nb) (setPendDin w u)) := if_neg hmac
  rw [hlatched, hmacFinal_appendData] at hfinal
  exact ⟨u, hstream, hfinal⟩

/-- The inner hash is SHA-512 of the padded key and the message: the key's block was the first append. -/
theorem pad_appendData_absorbInnerKey_h {m : List Byte} (hm : 128 + m.length < 2 ^ 64) (w : Word) (s : State) :
    (pad (appendData m (setPendDin w (absorbInnerKey s)))).h =
      sha512 ((storeBytes s.key).map (· ^^^ ipadByte) ++ m) := by
  have hclamped : Clamped (setPendDin w (coreInit s)) := clamped_coreInit s
  rw [absorbInnerKey, ← appendData_setPendDin, appendData_appendData, ipadKey, paddedBytes_eq_map]
  exact pad_appendData_h_of_fresh hclamped rfl rfl rfl
    (by rwa [List.length_append, List.length_map, storeBytes_length])

/-- From the inner key under K0, `FINAL` leaves the MAC of all data appended since. -/
theorem hmacFinal_absorbInnerKey_h {k m : List Byte} {s : State} (hkey : storeBytes s.key = keyZero k)
    (hm : 128 + m.length < 2 ^ 64) (w : Word) :
    (hmacFinal m (setPendDin w (absorbInnerKey s))).h = hmacSha512 k m := by
  rw [hmacFinal_h, pad_appendData_absorbInnerKey_h hm, setPendDin_key, absorbInnerKey_key, hkey, hmacSha512,
    sha512Bytes]

/-- Settles O33: the key's commands leave the inner key under K0, and `FINAL` the MAC of the message. -/
theorem streamedMacIsHmacSha512 : Obligations.StreamedMacIsHmacSha512 := by
  intro ks ms w nb s m hk hm
  obtain ⟨k, c, hstream, hstart, hkey, hmode, -⟩ := exec_key hk s
  have hbegun : (absorbInnerKey c).mode = .hmac := (absorbInnerKey_mode c).trans hmode
  obtain ⟨u, hupdates, hfinal⟩ := execStream_update_finalMac hbegun ms w nb
  exact ⟨_, k, _, u, _, rfl, hstream, hstart, hupdates, hfinal, hmacFinal_absorbInnerKey_h hkey hm w,
    hmacFinal_phase _ _, by rw [hmacFinal_mode, setPendDin_mode, hbegun], hmacFinal_total _ _⟩

end Sys2Proof.Machine
end

section
/-! PROOFS. The acceptance of a command and the error record (spec/60_exceptions.md R351 to R353, R355). -/

namespace Sys2Proof.Machine

/-! ### Acceptance (R352) -/

theorem onCmdWrite_of_busy {s : State} (hbusy : s.busy = true) (w : Word) : onCmdWrite w s = raiseError .busy s :=
  if_pos hbusy

theorem onCmdWrite_of_decode_error {w : Word} {e : ErrCode} {s : State} (hbusy : ¬ s.busy = true)
    (hd : decode w = .error e) : onCmdWrite w s = raiseError e s := by
  simp only [onCmdWrite, if_neg hbusy, hd]

theorem onCmdWrite_of_decode_ok {w : Word} {i : Instr} {s : State} (hbusy : ¬ s.busy = true) (hd : decode w = .ok i) :
    onCmdWrite w s = (acceptError i s).elim (latchCommand w s) (raiseError · s) := by
  simp only [onCmdWrite, if_neg hbusy, hd]
  cases acceptError i s <;> rfl

theorem lengthOverflows_iff (nb : BitVec 3) (s : State) :
    lengthOverflows nb s = true ↔ 2 ^ 64 - 1 < s.total.toNat + nb.toNat := by
  rw [lengthOverflows, totalMax, decide_eq_true_iff]

/-- The checks on the state are one list for all commands, in the rule's order; each applies to its opcodes. -/
theorem acceptError_eq (i : Instr) (s : State) :
    acceptError i s =
      if (opcodeOf i).toNat ∈ [0x02, 0x03] ∧ s.mode = .key then some .mode
      else if (opcodeOf i).toNat ∈ [0x11, 0x12] ∧ s.mode ≠ .key then some .mode
      else if (opcodeOf i).toNat = 0x13 ∧ s.keyValid = false then some .noKey
      else if (opcodeOf i).toNat ∈ [0x02, 0x03] ∧ s.phase = .finalized then some .finalized
      else if (opcodeOf i).toNat ∈ [0x02, 0x03, 0x11] ∧ 2 ^ 64 - 1 < s.total.toNat + (nbOf i).toNat then some .lenOvf
      else none := by
  cases i <;> simp [acceptError, lengthOverflows_iff, opcodeOf, nbOf]

theorem opcodeOf_toNat_of_decode {w : Word} {i : Instr} (h : decode w = .ok i) :
    (opcodeOf i).toNat = w.toNat % 256 := by
  obtain ⟨hcmd, -⟩ := (decode_eq_ok_iff w i).mp h
  rw [(commandOf_eq_some hcmd).1, opField_toNat]

theorem nbOf_toNat_of_decode {w : Word} {i : Instr} (h : decode w = .ok i) :
    (nbOf i).toNat = w.toNat / 256 % 8 := by
  rw [nbOf_of_decode h, nbField_toNat]

/-- Settles O34: the tests on the word are those of `Decode`; a word that passes them is a command, whose opcode
says which tests on the state apply. -/
theorem acceptanceFollowsPriority : Obligations.AcceptanceFollowsPriority := by
  intro w s op nb rsv
  have hdecode := decodeFollowsFieldTests w
  dsimp only at hdecode
  by_cases hbusy : s.busy = true
  · rw [if_pos hbusy, onCmdWrite_of_busy hbusy]
  rw [if_neg hbusy]
  by_cases hop : op ∉ [0x01, 0x02, 0x03, 0x10, 0x11, 0x12, 0x13]
  · rw [if_pos hop] at hdecode ⊢
    exact onCmdWrite_of_decode_error hbusy hdecode
  rw [if_neg hop] at hdecode ⊢
  by_cases hrsv : rsv ≠ 0
  · rw [if_pos hrsv] at hdecode ⊢
    exact onCmdWrite_of_decode_error hbusy hdecode
  rw [if_neg hrsv] at hdecode ⊢
  rw [← ite_or] at hdecode
  by_cases hnb : 4 < nb ∨ (op ∈ [0x01, 0x10, 0x12, 0x13] ∧ nb ≠ 0)
  · rw [if_pos hnb] at hdecode ⊢
    exact onCmdWrite_of_decode_error hbusy hdecode
  rw [if_neg hnb] at hdecode ⊢
  obtain ⟨i, hi⟩ : ∃ i, decode w = .ok i := by
    rw [hdecode]
    split_ifs <;> exact ⟨_, rfl⟩
  rw [onCmdWrite_of_decode_ok hbusy hi, acceptError_eq, opcodeOf_toNat_of_decode hi, nbOf_toNat_of_decode hi]
  split_ifs <;> rfl

/-! ### The error record (R353, R355) -/

/-- Settles O35: the two fields that `raise Error` writes, and the table of codes, as defined. -/
theorem firstErrorIsKept : Obligations.FirstErrorIsKept :=
  ⟨fun _ _ => rfl, rfl⟩

/-- A recorded error stands until the write at the offset of `ERRCODE`: an error of a `CMD` write comes second. -/
theorem regWrite_errorRecord {s : State} (herr : s.err = true) (off : Nat) (v : Word) :
    ((regWrite off v s).err = true ∧ (regWrite off v s).errcode = s.errcode) ∨ off = 0x010 := by
  obtain ⟨-, hw⟩ | ⟨-, hw⟩ | ⟨hoff, -⟩ | hw := regWrite_cases off v s
  · obtain ⟨-, -, hc⟩ | ⟨e, hc⟩ := onCmdWrite_cases v s
    · exact .inl (by simp [hw, hc, herr])
    · exact .inl (by simp [hw, hc, herr])
  · exact .inl (by simp [hw, herr])
  · exact .inr hoff
  · exact .inl (by simp [hw, herr])

theorem HostEffect.errorRecord {s t : State} (h : HostEffect s t) (herr : s.err = true) :
    (t.err = true ∧ t.errcode = s.errcode) ∨ ∃ v, currentStmt s = some (.write 0x010 32 v) := by
  cases h with
  | wrote off v line =>
    obtain hkept | rfl := regWrite_errorRecord herr off v
    · exact .inl (by simpa using hkept)
    · exact .inr ⟨v, line⟩
  | read off dst =>
    obtain ⟨-, -, hsame, hcode⟩ := regRead_frame off s
    exact .inl (by simp [hsame, hcode, herr])
  | moved k => exact .inl ⟨herr, rfl⟩
  | stopped => exact .inl ⟨herr, rfl⟩

theorem advance_errorRecord {s t : State} (h : advance s = .next t) (herr : s.err = true) :
    (t.err = true ∧ t.errcode = s.errcode) ∨
    ((s.busy = true → s.latency ≠ 0) ∧ ∃ v, currentStmt s = some (.write 0x010 32 v)) := by
  obtain ⟨-, -, h⟩ | ⟨-, hwaits, h⟩ | ⟨hidle, h⟩ := advance_next h
  · obtain ⟨i, u, -, hu, rfl⟩ := engineStep_next h
    obtain ⟨hsame, hcode⟩ := exec_errorRecord hu
    exact .inl ⟨hsame.trans herr, hcode⟩
  · exact (h.errorRecord herr).imp_right fun hwrite => ⟨fun _ => hwaits, hwrite⟩
  · exact (h.errorRecord herr).imp_right fun hwrite => ⟨fun hbusy => by simp [hidle] at hbusy, hwrite⟩

/-- Settles O36: of the things a step can do, a reset and the host's write to `ERRCODE` lose a recorded error. -/
theorem onlyWriteOrResetClearsErrors : Obligations.OnlyWriteOrResetClearsErrors := by
  refine ⟨regWrite_errcode, fun s => ⟨(atReset_resetEngine s).err, (atReset_resetEngine s).errcode⟩, fun i s => ?_,
    fun s t herr h => ?_⟩
  · obtain ⟨t, ht⟩ := exec_next i s
    exact ⟨t, ht, exec_errorRecord ht⟩
  · obtain ⟨-, h⟩ | ⟨-, h⟩ | ⟨hreset, -⟩ | ⟨hreset, -⟩ := step_next h
    · exact (advance_errorRecord h herr).imp_right .inr
    · exact (advance_errorRecord (s := consumeSample s) h herr).imp_right .inr
    all_goals
      obtain ⟨rest, hrest⟩ := List.head?_eq_some_iff.mp hreset
      exact .inr (.inl ⟨_, rest, hrest, by decide⟩)

end Sys2Proof.Machine
end

section
/-! PROOFS. The command in flight: what the host leaves of it, and when it runs (spec/60_exceptions.md R354, R356). -/

namespace Sys2Proof.Machine

/-! ### What the host leaves of it (R356) -/

/-- The command in flight and what remains of its latency are the same in both states. -/
structure SameCommand (s t : State) : Prop where
  busy : t.busy = s.busy
  pendCmd : t.pendCmd = s.pendCmd
  pendDin : t.pendDin = s.pendDin
  latency : t.latency = s.latency

/-- While a command is in flight no write latches another. -/
theorem sameCommand_regWrite {s : State} (hbusy : s.busy = true) (off : Nat) (v : Word) :
    SameCommand s (regWrite off v s) := by
  obtain ⟨-, hw⟩ | ⟨-, hw⟩ | ⟨-, hw⟩ | hw := regWrite_cases off v s
  · rw [hw, onCmdWrite_of_busy hbusy]; constructor <;> rfl
  · rw [hw]; constructor <;> rfl
  · rw [hw]; constructor <;> rfl
  · rw [hw]; constructor <;> rfl

theorem sameCommand_regRead (off : Nat) (s : State) : SameCommand s (regRead off s).2 := by
  obtain h | ⟨-, h⟩ := regRead_state off s
  · rw [h]; constructor <;> rfl
  · rw [h]; constructor <;> rfl

theorem HostEffect.sameCommand {s t : State} (h : HostEffect s t) (hbusy : s.busy = true) : SameCommand s t := by
  cases h with
  | wrote off v _ =>
    obtain ⟨hb, hcmd, hdin, hlat⟩ := sameCommand_regWrite hbusy off v
    exact ⟨hb, hcmd, hdin, hlat⟩
  | read off dst =>
    obtain ⟨hb, hcmd, hdin, hlat⟩ := sameCommand_regRead off s
    constructor <;> simpa
  | moved k => constructor <;> rfl
  | stopped => constructor <;> rfl

/-- Settles O49: the checks read the datapath, which no statement writes. -/
theorem commandInFlightIsUndisturbed : Obligations.CommandInFlightIsUndisturbed := by
  intro s t hbusy h
  have heffect := hostStep_next h
  have hdatapath := heffect.sameDatapath
  obtain ⟨hb, hcmd, hdin, hlat⟩ := heffect.sameCommand hbusy
  exact ⟨hb.trans hbusy, hcmd, hdin, hlat, hdatapath, acceptError_congr hdatapath⟩

/-! ### Whose turn a step is (R354) -/

theorem advance_of_idle {s : State} (hidle : s.busy = false) : advance s = hostStep s := by
  simp [advance, hidle]

theorem advance_of_waiting {s : State} (hbusy : s.busy = true) (hwaits : s.latency ≠ 0) :
    advance s = hostStep (countHostStep s) := by
  simp [advance, hbusy, hwaits]

theorem advance_of_due {s : State} (hbusy : s.busy = true) (hdue : s.latency = 0) : advance s = engineStep s := by
  simp [advance, hbusy, hdue]

/-- When its latency has passed, the command in flight is executed, and no longer in flight. -/
theorem advance_executes {i : Instr} {s : State} (hbusy : s.busy = true) (hdue : s.latency = 0)
    (hd : decode s.pendCmd = .ok i) : ∃ t, exec i s = .next t ∧ advance s = .next (finishCommand t) := by
  obtain ⟨t, ht⟩ := exec_next i s
  refine ⟨t, ht, ?_⟩
  rw [advance_of_due hbusy hdue]
  simp only [engineStep, fetchWord, hd, ht]

theorem consumeSample_of_cons {s : State} {x : ResetSample} {rest : List ResetSample} (h : s.resetInput = x :: rest) :
    consumeSample s = { s with resetInput := rest } := by
  rw [consumeSample, h, List.tail_cons]

/-- Settles O52: with no sample left or after a quiet one, the step is the engine's. -/
theorem stepRunsTheCommandInFlight : Obligations.StepRunsTheCommandInFlight := by
  intro i s hbusy hdue hd
  refine ⟨fun hnil => ?_, fun rest hquiet => ?_⟩
  · rw [step_nil hnil]
    exact advance_executes hbusy hdue hd
  · rw [step_quiet hquiet, consumeSample_of_cons hquiet]
    exact advance_executes (s := { s with resetInput := rest }) hbusy hdue hd

/-- Settles O53: the step is the one without reset, from a state with the same command in flight. -/
theorem hostMovesWhileCommandWaits : Obligations.HostMovesWhileCommandWaits := by
  rintro s u (⟨hnil, rfl⟩ | ⟨rest, hquiet, rfl⟩)
  · rw [step_nil hnil]
    exact ⟨advance_of_idle, advance_of_waiting⟩
  · rw [step_quiet hquiet, consumeSample_of_cons hquiet]
    exact ⟨advance_of_idle (s := { s with resetInput := rest }),
      advance_of_waiting (s := { s with resetInput := rest })⟩

/-! ### The run to its completion (R354, R408) -/

/-- Reset is asserted in none of the coming steps. -/
def Unasserted (s : State) : Prop := ∀ x ∈ s.resetInput, x = .quiet

theorem Unasserted.consumeSample {s : State} (h : Unasserted s) : Unasserted (consumeSample s) :=
  fun x hx => h x (List.mem_of_mem_tail hx)

theorem Unasserted.step_eq {s : State} (h : Unasserted s) : step s = advance (Machine.consumeSample s) := by
  cases hinput : s.resetInput with
  | nil =>
    have hsame : Machine.consumeSample s = s := by rw [Machine.consumeSample, hinput, List.tail_nil, ← hinput]
    rw [step_nil hinput, hsame]
  | cons x rest =>
    obtain rfl := h x (by rw [hinput]; exact List.mem_cons_self)
    exact step_quiet hinput

/-- A step of the machine while the command in flight waits for its latency: the host's. -/
theorem Unasserted.step_of_waiting {s : State} (h : Unasserted s) (hbusy : s.busy = true) (hwaits : s.latency ≠ 0) :
    step s = hostStep (countHostStep (Machine.consumeSample s)) :=
  h.step_eq.trans (advance_of_waiting (s := Machine.consumeSample s) hbusy hwaits)

@[simp] theorem onCmdWrite_resetInput (w : Word) (s : State) : (onCmdWrite w s).resetInput = s.resetInput := by
  obtain ⟨-, -, h⟩ | ⟨e, h⟩ := onCmdWrite_cases w s <;> simp [h]

@[simp] theorem regWrite_resetInput (off : Nat) (v : Word) (s : State) :
    (regWrite off v s).resetInput = s.resetInput := by
  obtain ⟨-, h⟩ | ⟨-, h⟩ | ⟨-, h⟩ | h := regWrite_cases off v s <;> simp [h]

@[simp] theorem regRead_resetInput (off : Nat) (s : State) : (regRead off s).2.resetInput = s.resetInput := by
  obtain h | ⟨-, h⟩ := regRead_state off s <;> simp [h]

theorem HostEffect.resetInput_eq {s t : State} (h : HostEffect s t) : t.resetInput = s.resetInput := by
  cases h with
  | wrote off v _ => simp
  | read off dst => simp
  | moved k => rfl
  | stopped => rfl

theorem core_run_succ_next_iff {k : Nat} {s t : State} :
    Sys2Proof.core.run (k + 1) s = .next t ↔ ∃ u, step s = .next u ∧ Sys2Proof.core.run k u = .next t := by
  rw [core_run_succ]
  cases step s <;> simp

/-- The engine's own step ends the command in flight. -/
theorem engineStep_busy {s t : State} (h : engineStep s = .next t) : t.busy = false := by
  obtain ⟨i, u, -, -, rfl⟩ := engineStep_next h
  rfl

/-- Whatever the host does meanwhile, the steps of the latency and one more complete the command in flight. -/
theorem run_completes {n : Nat} {s t : State} (hlat : s.latency = n) (hbusy : s.busy = true) (hquiet : Unasserted s)
    (h : Sys2Proof.core.run (n + 1) s = .next t) : t.busy = false := by
  induction n generalizing s with
  | zero =>
    obtain ⟨u, hstep, hrun⟩ := core_run_succ_next_iff.mp h
    cases hrun
    rw [hquiet.step_eq, advance_of_due (s := consumeSample s) hbusy hlat] at hstep
    exact engineStep_busy hstep
  | succ n ih =>
    obtain ⟨u, hstep, hrun⟩ := core_run_succ_next_iff.mp h
    rw [hquiet.step_of_waiting hbusy (by omega)] at hstep
    have heffect := hostStep_next hstep
    have hcommand := heffect.sameCommand hbusy
    have hleft : u.latency = n := hcommand.latency.trans (by simp [hlat])
    have hsamples : Unasserted u := by rw [Unasserted, heffect.resetInput_eq]; exact hquiet.consumeSample
    exact ih hleft (hcommand.busy.trans hbusy) hsamples hrun

theorem hostStep_of_halted {s : State} (h : s.hostHalted = true) : hostStep s = .next s := by
  simp [hostStep, currentStmt, hostOnLine, h]

theorem exec_hostHalted {i : Instr} {s t : State} (h : exec i s = .next t) : t.hostHalted = s.hostHalted := by
  cases i with
  | init => rw [exec_init_next h]; rfl
  | update nb => rw [exec_update_next h]; simp
  | final nb => obtain ⟨-, rfl⟩ | ⟨-, rfl⟩ := exec_final_next h <;> simp
  | keyBegin => rw [exec_keyBegin_next h]; rfl
  | keyUpdate nb => rw [exec_keyUpdate_next h]; simp
  | hmacStart => rw [exec_hmacStart_next h]; simp
  | hmacReset => rw [exec_hmacReset_next h]; simp

/-- With the host stopped, the steps of the latency pass and the engine's step ends the run. -/
theorem run_ends_of_halted {i : Instr} {n : Nat} {s : State} (hlat : s.latency = n) (hbusy : s.busy = true)
    (hquiet : Unasserted s) (hd : decode s.pendCmd = .ok i) (hhalted : s.hostHalted = true) :
    ∃ t, Sys2Proof.core.run (n + 1) s = .next t ∧ runEnded t = true := by
  induction n generalizing s with
  | zero =>
    obtain ⟨u, hu, hadvance⟩ := advance_executes (s := consumeSample s) hbusy hlat hd
    have hstep : step s = .next (finishCommand u) := hquiet.step_eq.trans hadvance
    have hstopped : u.hostHalted = true := (exec_hostHalted hu).trans hhalted
    exact ⟨_, core_run_succ_next_iff.mpr ⟨_, hstep, rfl⟩, by simp [runEnded, hstopped]⟩
  | succ n ih =>
    have hstep : step s = .next (countHostStep (consumeSample s)) :=
      (hquiet.step_of_waiting hbusy (by omega)).trans (hostStep_of_halted hhalted)
    have hleft : (countHostStep (consumeSample s)).latency = n := by simp [hlat]
    obtain ⟨t, hrun, hended⟩ := ih hleft hbusy hquiet.consumeSample hd hhalted
    exact ⟨t, core_run_succ_next_iff.mpr ⟨_, hstep, hrun⟩, hended⟩

/-- Settles O54, by induction on the latency; the invariants say that the word in flight decodes. -/
theorem acceptedCommandCompletes : Obligations.AcceptedCommandCompletes := by
  intro s hs hbusy hquiet
  obtain ⟨i, hd, -⟩ := hs.pending_accepted hbusy
  exact ⟨fun _ => run_completes rfl hbusy hquiet, run_ends_of_halted rfl hbusy hquiet hd⟩

end Sys2Proof.Machine
end

section
/-! PROOFS. `DIN` after acceptance (spec/70_reset_and_hazards.md R405): execution takes its operand from `PEND_DIN`,
so a write to `DIN` passes through it. -/

namespace Sys2Proof.Machine

theorem absorbByte_setDin (b : Byte) (v : Word) : Function.Commute (absorbByte b) (setDin v) :=
  fun s => by unfold absorbByte setDin; split <;> rfl

theorem appendData_setDin (d : List Byte) (v : Word) : Function.Commute (appendData d) (setDin v) :=
  fun s => congrArg (countAppended d) (absorbBytes_commute (absorbByte_setDin · v) d s)

/-- The padding is read off `BUFLEN` and `TOTAL`. -/
theorem pad_setDin (v : Word) : Function.Commute pad (setDin v) := fun s => by
  rw [pad_eq_absorbBytes, pad_eq_absorbBytes, setDin_buflen, setDin_total]
  exact absorbBytes_commute (absorbByte_setDin · v) _ s

/-! The updates that do not mention `DIN`. -/

theorem coreInit_setDin (v : Word) : Function.Commute coreInit (setDin v) := fun _ => rfl
theorem clearKey_setDin (v : Word) : Function.Commute clearKey (setDin v) := fun _ => rfl
theorem validateKey_setDin (v : Word) : Function.Commute validateKey (setDin v) := fun _ => rfl
theorem setMode_setDin (m : Mode) (v : Word) : Function.Commute (setMode m) (setDin v) := fun _ => rfl
theorem markFinalized_setDin (v : Word) : Function.Commute markFinalized (setDin v) := fun _ => rfl
theorem storeDigestKey_setDin (v : Word) : Function.Commute storeDigestKey (setDin v) := fun _ => rfl
theorem storeKeyData_setDin (d : List Byte) (v : Word) : Function.Commute (storeKeyData d) (setDin v) := fun _ => rfl
theorem ipadKey_setDin (v : Word) (s : State) : ipadKey (setDin v s) = ipadKey s := rfl
theorem opadKey_setDin (v : Word) (s : State) : opadKey (setDin v s) = opadKey s := rfl

/-! The procedures made of these (spec/44_hmac.md R303, R306, R307). -/

theorem absorbInnerKey_setDin (v : Word) : Function.Commute absorbInnerKey (setDin v) := fun s => by
  rw [absorbInnerKey, ipadKey_setDin, coreInit_setDin, appendData_setDin, absorbInnerKey]

theorem formKey_setDin (v : Word) : Function.Commute formKey (setDin v) := fun s => by
  unfold formKey
  rw [setDin_total]
  split
  · rw [pad_setDin, storeDigestKey_setDin]
  · rfl

theorem hmacFinal_setDin (d : List Byte) (v : Word) : Function.Commute (hmacFinal d) (setDin v) := fun s => by
  rw [hmacFinal, hmacFinal, appendData_setDin, pad_setDin, opadKey_setDin, coreInit_setDin, setDin_h,
    appendData_setDin, appendData_setDin, pad_setDin, markFinalized_setDin]

/-- Every command does the same with any `DIN`, and leaves it as it is. -/
theorem exec_setDin {i : Instr} {s t : State} (h : exec i s = .next t) (v : Word) :
    exec i (setDin v s) = .next (setDin v t) := by
  cases i with
  | init => rw [exec_init_next h, exec, execInit, coreInit_setDin, setMode_setDin]
  | update nb => rw [exec_update_next h, exec, execUpdate, setDin_pendDin, appendData_setDin]
  | final nb =>
    obtain ⟨hhash, rfl⟩ | ⟨hmac, rfl⟩ := exec_final_next h
    · rw [exec, execFinal, setDin_mode, setDin_pendDin, if_pos hhash, appendData_setDin, pad_setDin,
        markFinalized_setDin]
    · rw [exec, execFinal, setDin_mode, setDin_pendDin, if_neg hmac, hmacFinal_setDin]
  | keyBegin => rw [exec_keyBegin_next h, exec, execKeyBegin, coreInit_setDin, clearKey_setDin, setMode_setDin]
  | keyUpdate nb =>
    rw [exec_keyUpdate_next h, exec, execKeyUpdate, setDin_pendDin, storeKeyData_setDin, appendData_setDin]
  | hmacStart =>
    rw [exec_hmacStart_next h, exec, execHmacStart, formKey_setDin, validateKey_setDin, setMode_setDin,
      absorbInnerKey_setDin]
  | hmacReset => rw [exec_hmacReset_next h, exec, execHmacReset, absorbInnerKey_setDin, setMode_setDin]

/-- Settles O50: every command commutes with a write to `DIN`. -/
theorem executionIgnoresLaterDin : Obligations.ExecutionIgnoresLaterDin := by
  intro i s v
  obtain ⟨t, ht⟩ := exec_next i s
  exact ⟨t, ht, exec_setDin ht v⟩

end Sys2Proof.Machine
end

section
/-! PROOFS. Reset in any state, and the access that coincides with it (spec/70_reset_and_hazards.md R400,
spec/60_exceptions.md R360). -/

namespace Sys2Proof.Machine

/-! ### What the host does when its access is lost (log entry 5) -/

theorem loseAccess_of_write {s : State} {off bits : Nat} {v : Word} (h : currentStmt s = some (.write off bits v)) :
    loseAccess s = hostNext s := by
  rw [loseAccess, h]

theorem loseAccess_of_read {s : State} {off bits : Nat} {dst : Option Nat}
    (h : currentStmt s = some (.read off bits dst)) :
    loseAccess s = hostNext (assignRead dst (Config.freeRead s.engine s.draws) (countDraw s)) := by
  rw [loseAccess, h]

theorem loseAccess_of_no_access {s : State} (hwrite : ∀ off bits v, currentStmt s ≠ some (.write off bits v))
    (hread : ∀ off bits dst, currentStmt s ≠ some (.read off bits dst)) : loseAccess s = s := by
  unfold loseAccess
  split
  next h => exact absurd h (hwrite _ _ _)
  next h => exact absurd h (hread _ _ _)
  all_goals rfl

/-- Settles O55: reset is the last thing its step does, and it leaves the host as the lost access left it. -/
theorem resetWinsInEveryState : Obligations.ResetWinsInEveryState := by
  intro s rest after
  refine ⟨fun hpulse => ?_, fun hpulse => ?_⟩
  · rw [step_pulse hpulse, consumeSample_of_cons hpulse]
    exact ⟨_, rfl, atReset_resetEngine after, sameHost_resetEngine after⟩
  · rw [step_pulseOnAccess hpulse, consumeSample_of_cons hpulse]
    refine ⟨_, rfl, atReset_resetEngine (loseAccess after), ?_⟩
    have hline : currentStmt after = currentStmt s := rfl
    split
    next hstmt =>
      rw [loseAccess_of_write (hline.trans hstmt)]
      exact sameHost_resetEngine (hostNext after)
    next hstmt =>
      rw [loseAccess_of_read (hline.trans hstmt)]
      constructor <;> rfl
    next hstmt =>
      rw [loseAccess_of_read (hline.trans hstmt)]
      constructor <;> rfl
    next hwrite hdropped hassigned =>
      have hread : ∀ off bits dst, currentStmt s ≠ some (.read off bits dst) := fun off bits dst h =>
        match dst with
        | none => hdropped off bits h
        | some x => hassigned off bits x h
      have hkept : loseAccess after = after := loseAccess_of_no_access hwrite hread
      rw [hkept]
      exact sameHost_resetEngine after

end Sys2Proof.Machine
end
